-- ==== Sys2Proof/Word.lean ====
section
/-! DEFINITION. The widths of spec/00_scope.md R6: words, characters, register numbers. -/

namespace Sys2Proof

/-- A 16-bit word: the content of a register, of a memory cell, and an address (R6, R30). -/
abbrev Word := BitVec 16

/-- An 8-bit character of the input and output ports (R134, R135). -/
abbrev Byte := BitVec 8

/-- The 3-bit field that names one of R0..R7; its value is the register's number (R10). -/
abbrev RegNum := BitVec 3

end Sys2Proof
end

