-- ==== Sys2Proof/Config.lean ====
section
/-! DEFINITION. What is fixed for the machine (spec/00_scope.md R6) and the one free value of the implementation (R7). -/

namespace Sys2Proof.Config

/-- `LOAD_ADDR`: where the image is placed and where execution begins (R6, R171, R172). -/
def loadAddr : Word := 0x3000#16

/-- `MEM_WORDS`: the number of memory cells (R6, R30). -/
def memWords : Nat := 65536

/-- The longest image, the number of cells from 0x3000 to 0xFFFF (R172). -/
def maxImageWords : Nat := 0xD000

/-- `TRAP_BASE` (R6, R121). -/
def trapBase : Byte := 0x20#8

/-- `NUM_TRAPS` (R6, R121). -/
def numTraps : Nat := 6

/-- `LINK_REG`: the register JSR and JSRR write (R6, R113, R114). -/
def linkReg : RegNum := 7#3

/-- `IO_REG`: the operand of the trap services (R6, R121). -/
def ioReg : RegNum := 0#3

/-- `IN_PROMPT`, the bytes IN writes before it reads: a finite list the spec leaves open (R126, D8).
A free value with no body, which State.reset holds; every statement holds whatever it is (log entry 8). -/
opaque inPrompt : List Byte

end Sys2Proof.Config
end

