-- ==== Sys2Proof/Machine/Flags.lean ====
section
/-! DEFINITION. The condition flags: their bits in COND (spec/10_state.md R13), setcc (spec/40_fetch_execute_loop.md R74)
and BR's test (spec/44_control.md R110). -/

namespace Sys2Proof.Machine

/-- The three condition flags (R13). -/
inductive Flag where
  | p | z | n
  deriving DecidableEq, Repr

/-- A flag's value in COND (R13). PRESUMED: the spec takes the pairing from general knowledge (D2, log entry 2). -/
def Flag.bits : Flag → BitVec 3
  | .p => 0b001#3
  | .z => 0b010#3
  | .n => 0b100#3

/-- The flag of a 16-bit value (R74). -/
def flagOf (v : Word) : Flag :=
  if v = 0x0000#16 then .z else if v.getLsbD 15 then .n else .p

/-- The COND that `setcc v` writes (R74). -/
def condOf (v : Word) : BitVec 3 := (flagOf v).bits

/-- Exactly one flag is set (R14). -/
def oneHot (c : BitVec 3) : Bool := c == Flag.bits .p || c == Flag.bits .z || c == Flag.bits .n

/-- BR's test, `(COND & condition_mask) != 0` (R110). -/
def branchTaken (cond mask : BitVec 3) : Bool := cond &&& mask != 0#3

end Sys2Proof.Machine
end

