-- ==== Sys2Proof/Machine/State.lean ====
section
/-! DEFINITION. The state of the machine (spec/10_state.md), the reasons it stops, and the state after reset
(spec/70_reset_and_hazards.md). -/

namespace Sys2Proof.Machine

/-- A memory cell: its address and the 16-bit word it holds. The addressable unit is the word (R30, R34). -/
abbrev Cell := Nat × Word

/-- Memory: the cells that hold another word than 0x0000, by rising address (log entry 24). -/
abbrev Memory := List Cell

/-- An event on the output port (R20, R135, R136). -/
inductive OutEvent where
  | char (b : Byte)
  | flush
  deriving DecidableEq, Repr

/-- A trap service that is still in progress between two steps (log entries 7 and 11). -/
inductive Pending where
  /-- GETC waits for a character (R134, R153). -/
  | getc
  /-- IN has written its prompt and waits for a character (R126, R153). -/
  | in_
  /-- PUTS goes on at this address (R125 (f)). -/
  | puts (at_ : Word)
  /-- PUTSP goes on at this address (R128 (g)). -/
  | putsp (at_ : Word)
  deriving DecidableEq, Repr

/-- The state (R10 to R21). -/
structure State where
  /-- R0..R7 (R10). -/
  regs : Vector Word 8
  /-- PC (R12). -/
  pc : Word
  /-- COND (R13). -/
  cond : BitVec 3
  /-- The running flag (R15). -/
  running : Bool
  /-- Memory (R17). -/
  mem : Memory
  /-- The trap service in progress; the model's own field (log entries 7 and 11). -/
  service : Option Pending
  /-- `IN_STREAM`: the characters supplied and not yet consumed, first to be read first (R20, R134). -/
  inStream : List Byte
  /-- `OUT_TRACE`: the events so far, oldest first (R20, R135). -/
  outTrace : List OutEvent
  /-- `IN_PROMPT`, an argument of the model that no step writes (R126, log entry 8). -/
  inPrompt : List Byte
  deriving DecidableEq, Repr

/-- Why the machine stops. -/
inductive Fault where
  /-- `UndefinedTrapVector(v)` (R130, R152): raised by TRAP with a vector that the trap table has no service for.
  `left` is the state it stops in. Safe: the spec gives no effect to go on with (log entry 4). -/
  | undefinedTrapVector (v : Byte) (left : State)
  deriving DecidableEq, Repr

/-- What the model turns away. -/
inductive Refusal where
  /-- Raised by exec's arm of an instruction that has no meaning yet; no arm is such. Safe. -/
  | notModelled (mnemonic : String)
  /-- Raised by State.start for an image of more than 0xD000 words (R172, D15); no step raises it. Safe. -/
  | imageTooLong (words : Nat)
  deriving DecidableEq, Repr

/-- The machine right after reset (R170 to R175), with nothing loaded. The spec leaves R0..R7, COND's flag, the input and
IN's prompt open: DESIGN CHOICE, log entries 12, 13, 17 and 8. `State.start` takes any. -/
def State.reset : State where
  regs := Vector.replicate 8 0x0000#16
  pc := Config.loadAddr
  cond := Flag.bits .z
  running := true
  mem := []
  service := none
  inStream := []
  outTrace := []
  inPrompt := Config.inPrompt

end Sys2Proof.Machine
end

