-- ==== Sys2Proof/Machine/Ops.lean ====
section
/-! DEFINITION. The operations every meaning is made of: memory, registers, PC, COND, fetch, the character ports.
The core has no exceptions, so there is none to take (spec/60_exceptions.md R150); TRAP's entry saves nothing and changes no
mode, and there is nothing to return from (R157, R158): its dispatch is execTrap of Machine/Trap.lean. -/

namespace Sys2Proof.Machine

/-! ### Memory (spec/20_memory.md) -/

/-- What an unlisted cell reads as: the reset content (R172). -/
def unlistedWord : Word := 0x0000#16

/-- The word of the cell with this key. -/
def Memory.get : Memory → Nat → Word
  | [], _ => unlistedWord
  | (k, v) :: rest, a => if k = a then v else Memory.get rest a

/-- A cell put in its place by address. -/
def Memory.insert (c : Cell) : Memory → Memory
  | [] => [c]
  | d :: rest => if c.1 < d.1 then c :: d :: rest else d :: Memory.insert c rest

/-- Every cell but the one with this key. -/
def Memory.erase (m : Memory) (a : Nat) : Memory := m.filter (fun c => c.1 != a)

/-- `MemRead(addr, 1)` (R31). -/
def Memory.read (m : Memory) (addr : Word) : Word := m.get addr.toNat

/-- `MemWrite(addr, 1, v)` (R32). A word that an unlisted cell reads as is not listed. -/
def Memory.write (m : Memory) (addr v : Word) : Memory :=
  if v = unlistedWord then Memory.erase m addr.toNat
  else Memory.insert (addr.toNat, v) (Memory.erase m addr.toNat)

/-- The canonical form: addresses strictly rising and inside the address space, no cell that reads as if unlisted. -/
abbrev Memory.wf (m : Memory) : Prop :=
  m.Pairwise (fun c d => c.1 < d.1) ∧ ∀ c ∈ m, c.1 < Config.memWords ∧ c.2 ≠ unlistedWord

/-- `MemRead` on the state's memory. -/
def State.readMem (s : State) (addr : Word) : Word := s.mem.read addr

/-- `MemWrite` on the state's memory. -/
def State.writeMem (s : State) (addr v : Word) : State := { s with mem := s.mem.write addr v }

/-! ### Registers, PC, COND, running -/

/-- `R[i]` (R10). -/
def State.reg (s : State) (r : RegNum) : Word := s.regs[r.toNat]'r.isLt

/-- `R[i] <- v` (R10). -/
def State.setReg (s : State) (r : RegNum) (v : Word) : State := { s with regs := s.regs.set r.toNat v r.isLt }

/-- `pc <- target` (R8). -/
def State.setPc (s : State) (target : Word) : State := { s with pc := target }

/-- `setcc(v)` (R74). -/
def State.setcc (s : State) (v : Word) : State := { s with cond := condOf v }

/-- `R[DR] <- v` and then `setcc` of the value written (R76). -/
def State.writeResult (s : State) (dr : RegNum) (v : Word) : State := (s.setReg dr v).setcc v

/-- `R[7] <- PC`, the link of JSR and JSRR (R113, R114). -/
def State.link (s : State) : State := s.setReg Config.linkReg s.pc

/-- `running <- false` (R129). -/
def State.stop (s : State) : State := { s with running := false }

/-! ### Fetch (spec/40_fetch_execute_loop.md R71) -/

/-- `ir <- MemRead(PC, 1)`. -/
def State.fetchWord (s : State) : Word := s.readMem s.pc

/-- `pc <- PC + 1`, modulo 2^16. -/
def State.advancePc (s : State) : State := s.setPc (s.pc + 1#16)

/-! ### The character ports (spec/45_trap.md section 2) -/

/-- Events appended to `OUT_TRACE` (R135, R136). -/
def State.emit (s : State) (es : List OutEvent) : State := { s with outTrace := s.outTrace ++ es }

/-- The trap service that a step leaves in progress, or none. -/
def State.setService (s : State) (p : Option Pending) : State := { s with service := p }

/-- The rest of `IN_STREAM` after a character was consumed (R134). -/
def State.setInStream (s : State) (cs : List Byte) : State := { s with inStream := cs }

end Sys2Proof.Machine
end

