-- ==== Sys2Proof/Machine/Operands.lean ====
section
/-! DEFINITION. Operand forms: sign and zero extension (spec/30_encoding.md R55, R56), the bytes of a word
(spec/20_memory.md R34) and the addressing modes (spec/42_load.md R94). -/

namespace Sys2Proof.Machine

/-- `sext_N`: "if its high bit is 1, the result is the field OR'd with all higher bits set to 1 …; otherwise the
field value unchanged" (R55). -/
def sext {n : Nat} (v : BitVec n) : Word :=
  if v.msb then v.setWidth 16 ||| (0xFFFF#16 <<< n) else v.setWidth 16

/-- `zext_8` (R8). -/
def zext8 (c : Byte) : Word := c.setWidth 16

/-- Bits 7:0 of a word (R34). -/
def lowByte (w : Word) : Byte := w.extractLsb' 0 8

/-- Bits 15:8 of a word (R34). -/
def highByte (w : Word) : Byte := w.extractLsb' 8 8

/-- PC-relative: the incremented PC plus the sign-extended offset, modulo 2^16 (R94, R33). Also the target of a taken BR
(R110) and LEA's value (R93). -/
def State.eaPc9 (s : State) (off9 : BitVec 9) : Word := s.pc + sext off9

/-- JSR's target (R113). -/
def State.eaPc11 (s : State) (off11 : BitVec 11) : Word := s.pc + sext off11

/-- Indirect: the word at the PC-relative address (R94). -/
def State.eaIndirect (s : State) (off9 : BitVec 9) : Word := s.readMem (s.eaPc9 off9)

/-- Base + offset (R94). -/
def State.eaBase6 (s : State) (baseR : RegNum) (off6 : BitVec 6) : Word := s.reg baseR + sext off6

end Sys2Proof.Machine
end

