-- ==== Sys2Proof/Machine/Control.lean ====
section
/-! DEFINITION. The control-transfer instructions (spec/44_control.md). A transfer takes effect at once (R115). -/

namespace Sys2Proof.Machine

/-- BR (R110, R111). -/
def execBr (mask : BitVec 3) (off9 : BitVec 9) (s : State) : Host.Outcome State Fault Refusal :=
  .next (if branchTaken s.cond mask then s.setPc (s.eaPc9 off9) else s)

/-- JMP (R112). -/
def execJmp (baseR : RegNum) (s : State) : Host.Outcome State Fault Refusal :=
  .next (s.setPc (s.reg baseR))

/-- JSR: the link first; the target uses the same incremented PC (R113). -/
def execJsr (off11 : BitVec 11) (s : State) : Host.Outcome State Fault Refusal :=
  .next (s.link.setPc (s.eaPc11 off11))

/-- JSRR: the base is read AFTER the write of R7 (R114; D18, log entry 19). -/
def execJsrr (baseR : RegNum) (s : State) : Host.Outcome State Fault Refusal :=
  .next (s.link.setPc (s.link.reg baseR))

end Sys2Proof.Machine
end

