-- ==== Sys2Proof/Machine/Load.lean ====
section
/-! DEFINITION. The load instructions (spec/42_load.md). Addresses use the incremented PC, which exec's state holds
(R71, R94). -/

namespace Sys2Proof.Machine

/-- LD (R90). -/
def execLd (dr : RegNum) (off9 : BitVec 9) (s : State) : Host.Outcome State Fault Refusal :=
  .next (s.writeResult dr (s.readMem (s.eaPc9 off9)))

/-- LDI: the pointer is read first, then the data (R91, R41). -/
def execLdi (dr : RegNum) (off9 : BitVec 9) (s : State) : Host.Outcome State Fault Refusal :=
  .next (s.writeResult dr (s.readMem (s.eaIndirect off9)))

/-- LDR: the base is read before DR is written (R92). -/
def execLdr (dr baseR : RegNum) (off6 : BitVec 6) (s : State) : Host.Outcome State Fault Refusal :=
  .next (s.writeResult dr (s.readMem (s.eaBase6 baseR off6)))

/-- LEA: the address itself, with no access; COND is set (R93). -/
def execLea (dr : RegNum) (off9 : BitVec 9) (s : State) : Host.Outcome State Fault Refusal :=
  .next (s.writeResult dr (s.eaPc9 off9))

end Sys2Proof.Machine
end

