-- ==== Sys2Proof/Machine/Operate.lean ====
section
/-! DEFINITION. The operate instructions (spec/41_operate.md). Sources are register values (R82, R84; D3, log entry 3) and
are read before DR is written (R80). -/

namespace Sys2Proof.Machine

/-- ADD, register form (R80, R85). -/
def execAddReg (dr sr1 sr2 : RegNum) (s : State) : Host.Outcome State Fault Refusal :=
  .next (s.writeResult dr (s.reg sr1 + s.reg sr2))

/-- ADD, immediate form (R81, R85). -/
def execAddImm (dr sr1 : RegNum) (imm5 : BitVec 5) (s : State) : Host.Outcome State Fault Refusal :=
  .next (s.writeResult dr (s.reg sr1 + sext imm5))

/-- AND, register form (R82). -/
def execAndReg (dr sr1 sr2 : RegNum) (s : State) : Host.Outcome State Fault Refusal :=
  .next (s.writeResult dr (s.reg sr1 &&& s.reg sr2))

/-- AND, immediate form (R83). -/
def execAndImm (dr sr1 : RegNum) (imm5 : BitVec 5) (s : State) : Host.Outcome State Fault Refusal :=
  .next (s.writeResult dr (s.reg sr1 &&& sext imm5))

/-- NOT (R84). -/
def execNot (dr sr1 : RegNum) (s : State) : Host.Outcome State Fault Refusal :=
  .next (s.writeResult dr (~~~ s.reg sr1))

end Sys2Proof.Machine
end

