-- ==== Sys2Proof/Machine/Reserved.lean ====
section
/-! DEFINITION. The reserved opcodes (spec/46_reserved.md): "reserved; no-op in this core". -/

namespace Sys2Proof.Machine

/-- RTI: nothing; it returns from nothing and checks no mode (R140, R160). -/
def execRti (s : State) : Host.Outcome State Fault Refusal := .next s

/-- RES: nothing (R141). -/
def execRes (s : State) : Host.Outcome State Fault Refusal := .next s

end Sys2Proof.Machine
end

