-- ==== Sys2Proof/Machine/Store.lean ====
section
/-! DEFINITION. The store instructions (spec/43_store.md). The stored word is the register's value (D3, log entry 3). -/

namespace Sys2Proof.Machine

/-- ST (R100). -/
def execSt (sr : RegNum) (off9 : BitVec 9) (s : State) : Host.Outcome State Fault Refusal :=
  .next (s.writeMem (s.eaPc9 off9) (s.reg sr))

/-- STI: the pointer is read before the write (R101, R41). -/
def execSti (sr : RegNum) (off9 : BitVec 9) (s : State) : Host.Outcome State Fault Refusal :=
  .next (s.writeMem (s.eaIndirect off9) (s.reg sr))

/-- STR (R102). -/
def execStr (sr baseR : RegNum) (off6 : BitVec 6) (s : State) : Host.Outcome State Fault Refusal :=
  .next (s.writeMem (s.eaBase6 baseR off6) (s.reg sr))

end Sys2Proof.Machine
end

