-- ==== Sys2Proof/Syntax.lean ====
section
/-! DEFINITION. The instructions: one constructor per row of spec/opcode_table.json, operands as the fields of
spec/30_encoding.md R53. Ignored bits (R57) are no operands and are not kept. -/

namespace Sys2Proof

/-- The sixteen executors, one per 4-bit opcode (R52). JSR and JSRR share one, the TRAP rows share one. -/
inductive Opcode where
  | br | add | ld | st | jsr | and | ldr | str | rti | not | ldi | sti | jmp | res | lea | trap
  deriving DecidableEq, Repr

/-- The six trap services, in the order of the trap table (R121). -/
inductive TrapService where
  | getc | out | puts | in_ | putsp | halt
  deriving DecidableEq, Repr

/-- The instructions of the opcode table. -/
inductive Instr where
  /-- ADD, register form (R80). -/
  | addReg (dr sr1 sr2 : RegNum)
  /-- ADD, immediate form (R81). -/
  | addImm (dr sr1 : RegNum) (imm5 : BitVec 5)
  /-- AND, register form (R82). -/
  | andReg (dr sr1 sr2 : RegNum)
  /-- AND, immediate form (R83). -/
  | andImm (dr sr1 : RegNum) (imm5 : BitVec 5)
  /-- NOT (R84). -/
  | not (dr sr1 : RegNum)
  /-- LD (R90). -/
  | ld (dr : RegNum) (off9 : BitVec 9)
  /-- LDI (R91). -/
  | ldi (dr : RegNum) (off9 : BitVec 9)
  /-- LDR (R92). -/
  | ldr (dr baseR : RegNum) (off6 : BitVec 6)
  /-- LEA (R93). -/
  | lea (dr : RegNum) (off9 : BitVec 9)
  /-- ST (R100). -/
  | st (sr : RegNum) (off9 : BitVec 9)
  /-- STI (R101). -/
  | sti (sr : RegNum) (off9 : BitVec 9)
  /-- STR (R102). -/
  | str (sr baseR : RegNum) (off6 : BitVec 6)
  /-- BR (R110); `mask` is ir[11:9]: n, z, p. -/
  | br (mask : BitVec 3) (off9 : BitVec 9)
  /-- JMP (R112). -/
  | jmp (baseR : RegNum)
  /-- JSR (R113). -/
  | jsr (off11 : BitVec 11)
  /-- JSRR (R114). -/
  | jsrr (baseR : RegNum)
  /-- TRAP, the table's generic row (R120). A word decodes to it for the vectors without a service only (R130);
  its meaning dispatches on any vector. -/
  | trap (vector : BitVec 8)
  /-- TRAP 0x20 (R122). -/
  | getc
  /-- TRAP 0x21 (R123). -/
  | out
  /-- TRAP 0x22 (R124). -/
  | puts
  /-- TRAP 0x23 (R126). -/
  | in_
  /-- TRAP 0x24 (R127). -/
  | putsp
  /-- TRAP 0x25 (R129). -/
  | halt
  /-- RTI (R140). -/
  | rti
  /-- RES (R141). -/
  | res
  deriving DecidableEq, Repr

/-- The executor an instruction belongs to (R52). -/
def Instr.opcode : Instr → Opcode
  | .addReg _ _ _ => .add
  | .addImm _ _ _ => .add
  | .andReg _ _ _ => .and
  | .andImm _ _ _ => .and
  | .not _ _ => .not
  | .ld _ _ => .ld
  | .ldi _ _ => .ldi
  | .ldr _ _ _ => .ldr
  | .lea _ _ => .lea
  | .st _ _ => .st
  | .sti _ _ => .sti
  | .str _ _ _ => .str
  | .br _ _ => .br
  | .jmp _ => .jmp
  | .jsr _ => .jsr
  | .jsrr _ => .jsr
  | .trap _ => .trap
  | .getc => .trap
  | .out => .trap
  | .puts => .trap
  | .in_ => .trap
  | .putsp => .trap
  | .halt => .trap
  | .rti => .rti
  | .res => .res

end Sys2Proof
end

