-- ==== Sys2Proof/WellFormed.lean ====
section
/-! DEFINITION. Which terms of Instr stand for an instruction word. Every operand fits its field by its type and every
register field may name any register (spec/10_state.md R11), so the one check is on TRAP: a vector of the trap
table belongs to its service's own constructor (spec/30_encoding.md R59). -/

namespace Sys2Proof

/-- The vectors the trap table has a service for, 0x20..0x25 (R59, R121). -/
def vectorInTable (v : BitVec 8) : Bool :=
  Config.trapBase.toNat ≤ v.toNat && v.toNat < Config.trapBase.toNat + Config.numTraps

/-- Some word decodes to this term. -/
def Instr.wellFormed : Instr → Bool
  | .addReg _ _ _ => true
  | .addImm _ _ _ => true
  | .andReg _ _ _ => true
  | .andImm _ _ _ => true
  | .not _ _ => true
  | .ld _ _ => true
  | .ldi _ _ => true
  | .ldr _ _ _ => true
  | .lea _ _ => true
  | .st _ _ => true
  | .sti _ _ => true
  | .str _ _ _ => true
  | .br _ _ => true
  | .jmp _ => true
  | .jsr _ => true
  | .jsrr _ => true
  | .trap v => !vectorInTable v
  | .getc => true
  | .out => true
  | .puts => true
  | .in_ => true
  | .putsp => true
  | .halt => true
  | .rti => true
  | .res => true

end Sys2Proof
end

