-- ==== Sys2Proof/Decode.lean ====
section
/-! DEFINITION. Decoding and encoding (spec/30_encoding.md). Decoding is total and depends on the word alone (R51): no word
is rejected. What decodeTableWord refuses is a number that is no 16-bit word. -/

namespace Sys2Proof

/-- `OPCODE_MAP`: entry n is the executor of opcode n (R52). PRESUMED: the spec takes the numbers from general
knowledge (D1, log entry 1); decoder and encoder both read this one table. -/
def opcodeMap : List Opcode :=
  [.br, .add, .ld, .st, .jsr, .and, .ldr, .str, .rti, .not, .ldi, .sti, .jmp, .res, .lea, .trap]

/-- The executor a 4-bit opcode selects (R52, R72). -/
def opcodeOfBits (b : BitVec 4) : Opcode := opcodeMap.getD b.toNat .res

/-- The 4-bit opcode of an executor: its place in `opcodeMap`. -/
def bitsOfOpcode (o : Opcode) : BitVec 4 := BitVec.ofNat 4 (opcodeMap.idxOf o)

/-- The trap table: entry k serves vector `TRAP_BASE` + k (R59, R121). DEDUCED: the spec derives the numbers of GETC, PUTS, IN and
PUTSP from the order of the source's list (log entry 28). -/
def trapTable : List TrapService := [.getc, .out, .puts, .in_, .putsp, .halt]

/-- The service of a trap vector, "selected by trap_vector - 0x20"; none outside 0x20..0x25 (R59, R120). -/
def serviceOfVector (v : BitVec 8) : Option TrapService :=
  if Config.trapBase.toNat ≤ v.toNat then trapTable[v.toNat - Config.trapBase.toNat]? else none

/-- The trap vector of a service. -/
def vectorOfService (t : TrapService) : BitVec 8 :=
  BitVec.ofNat 8 (Config.trapBase.toNat + trapTable.idxOf t)

/-! ### Field extractors (R53) -/

/-- ir[15:12]. -/
def fieldOpcode (w : Word) : BitVec 4 := w.extractLsb' 12 4

/-- `dest_register`, ir[11:9]: DR of a load or operate, SR of a store. -/
def fieldDr (w : Word) : RegNum := w.extractLsb' 9 3

/-- `source_register_1`, ir[8:6]. -/
def fieldSr1 (w : Word) : RegNum := w.extractLsb' 6 3

/-- `source_register_2`, ir[2:0]. -/
def fieldSr2 (w : Word) : RegNum := w.extractLsb' 0 3

/-- `immediate_mode_flag`, ir[5]. -/
def fieldImmFlag (w : Word) : Bool := w.getLsbD 5

/-- `immediate5`, ir[4:0]. -/
def fieldImm5 (w : Word) : BitVec 5 := w.extractLsb' 0 5

/-- `condition_mask`, ir[11:9]: n, z, p. -/
def fieldMask (w : Word) : BitVec 3 := w.extractLsb' 9 3

/-- `offset6`, ir[5:0]. -/
def fieldOff6 (w : Word) : BitVec 6 := w.extractLsb' 0 6

/-- `offset9`, ir[8:0]. -/
def fieldOff9 (w : Word) : BitVec 9 := w.extractLsb' 0 9

/-- `offset11`, ir[10:0]. -/
def fieldOff11 (w : Word) : BitVec 11 := w.extractLsb' 0 11

/-- `long_flag`, ir[11]: 1 selects JSR, 0 JSRR. -/
def fieldLong (w : Word) : Bool := w.getLsbD 11

/-- `base_register`, ir[8:6]. -/
def fieldBaseR (w : Word) : RegNum := w.extractLsb' 6 3

/-- `trap_vector`, ir[7:0]. -/
def fieldVector (w : Word) : BitVec 8 := w.extractLsb' 0 8

/-- The instruction of a TRAP word (R59): the service's own constructor where the table has one. -/
def decodeTrap (v : BitVec 8) : Instr :=
  match serviceOfVector v with
  | some .getc => .getc
  | some .out => .out
  | some .puts => .puts
  | some .in_ => .in_
  | some .putsp => .putsp
  | some .halt => .halt
  | none => .trap v

/-- The instruction of a word (R51 to R54). The bits a format ignores are read by no extractor it uses (R57). -/
def decode (w : Word) : Instr :=
  match opcodeOfBits (fieldOpcode w) with
  | .br => .br (fieldMask w) (fieldOff9 w)
  | .add =>
    if fieldImmFlag w then .addImm (fieldDr w) (fieldSr1 w) (fieldImm5 w)
    else .addReg (fieldDr w) (fieldSr1 w) (fieldSr2 w)
  | .ld => .ld (fieldDr w) (fieldOff9 w)
  | .st => .st (fieldDr w) (fieldOff9 w)
  | .jsr => if fieldLong w then .jsr (fieldOff11 w) else .jsrr (fieldBaseR w)
  | .and =>
    if fieldImmFlag w then .andImm (fieldDr w) (fieldSr1 w) (fieldImm5 w)
    else .andReg (fieldDr w) (fieldSr1 w) (fieldSr2 w)
  | .ldr => .ldr (fieldDr w) (fieldBaseR w) (fieldOff6 w)
  | .str => .str (fieldDr w) (fieldBaseR w) (fieldOff6 w)
  | .rti => .rti
  | .not => .not (fieldDr w) (fieldSr1 w)
  | .ldi => .ldi (fieldDr w) (fieldOff9 w)
  | .sti => .sti (fieldDr w) (fieldOff9 w)
  | .jmp => .jmp (fieldBaseR w)
  | .res => .res
  | .lea => .lea (fieldDr w) (fieldOff9 w)
  | .trap => decodeTrap (fieldVector w)

/-! ### The encoder (R54) -/

/-- The opcode in bits 15:12 and the twelve low bits. -/
def assemble (o : Opcode) (low : BitVec 12) : Word := bitsOfOpcode o ++ low

/-- F-OPR: DR, SR1, 0, 00, SR2. -/
def formatOpr (dr sr1 sr2 : RegNum) : BitVec 12 := dr ++ sr1 ++ 0#3 ++ sr2

/-- F-OPI: DR, SR1, 1, imm5. -/
def formatOpi (dr sr1 : RegNum) (imm5 : BitVec 5) : BitVec 12 := dr ++ sr1 ++ 1#1 ++ imm5

/-- F-NOT: DR, SR1, 111111 (the canonical value of the ignored bits, R57). -/
def formatNot (dr sr1 : RegNum) : BitVec 12 := dr ++ sr1 ++ 0x3F#6

/-- F-BASE6: DR or SR, BaseR, off6. -/
def formatBase6 (r baseR : RegNum) (off6 : BitVec 6) : BitVec 12 := r ++ baseR ++ off6

/-- F-PC9: DR or SR, off9; F-BR: the mask, off9. -/
def formatPc9 (r : BitVec 3) (off9 : BitVec 9) : BitVec 12 := r ++ off9

/-- F-JMP: 000, BaseR, 000000. -/
def formatJmp (baseR : RegNum) : BitVec 12 := 0#3 ++ baseR ++ 0#6

/-- F-JSR: 1, off11. -/
def formatJsr (off11 : BitVec 11) : BitVec 12 := 1#1 ++ off11

/-- F-JSRR: 0, 00, BaseR, 000000. -/
def formatJsrr (baseR : RegNum) : BitVec 12 := 0#3 ++ baseR ++ 0#6

/-- F-TRAP: 0000, trapvect8. -/
def formatTrap (v : BitVec 8) : BitVec 12 := 0#4 ++ v

/-- The canonical word of an instruction (R54, R57). -/
def encode : Instr → Word
  | .addReg dr sr1 sr2 => assemble .add (formatOpr dr sr1 sr2)
  | .addImm dr sr1 imm5 => assemble .add (formatOpi dr sr1 imm5)
  | .andReg dr sr1 sr2 => assemble .and (formatOpr dr sr1 sr2)
  | .andImm dr sr1 imm5 => assemble .and (formatOpi dr sr1 imm5)
  | .not dr sr1 => assemble .not (formatNot dr sr1)
  | .ld dr off9 => assemble .ld (formatPc9 dr off9)
  | .ldi dr off9 => assemble .ldi (formatPc9 dr off9)
  | .ldr dr baseR off6 => assemble .ldr (formatBase6 dr baseR off6)
  | .lea dr off9 => assemble .lea (formatPc9 dr off9)
  | .st sr off9 => assemble .st (formatPc9 sr off9)
  | .sti sr off9 => assemble .sti (formatPc9 sr off9)
  | .str sr baseR off6 => assemble .str (formatBase6 sr baseR off6)
  | .br mask off9 => assemble .br (formatPc9 mask off9)
  | .jmp baseR => assemble .jmp (formatJmp baseR)
  | .jsr off11 => assemble .jsr (formatJsr off11)
  | .jsrr baseR => assemble .jsr (formatJsrr baseR)
  | .trap v => assemble .trap (formatTrap v)
  | .getc => assemble .trap (formatTrap (vectorOfService .getc))
  | .out => assemble .trap (formatTrap (vectorOfService .out))
  | .puts => assemble .trap (formatTrap (vectorOfService .puts))
  | .in_ => assemble .trap (formatTrap (vectorOfService .in_))
  | .putsp => assemble .trap (formatTrap (vectorOfService .putsp))
  | .halt => assemble .trap (formatTrap (vectorOfService .halt))
  | .rti => assemble .rti 0#12
  | .res => assemble .res 0#12

/-- The bits of its words that an instruction's format ignores (R54, R57; D17, log entry 18). -/
def Instr.ignoredBits : Instr → Word
  | .addReg _ _ _ => 0x0018#16
  | .addImm _ _ _ => 0x0000#16
  | .andReg _ _ _ => 0x0018#16
  | .andImm _ _ _ => 0x0000#16
  | .not _ _ => 0x003F#16
  | .ld _ _ => 0x0000#16
  | .ldi _ _ => 0x0000#16
  | .ldr _ _ _ => 0x0000#16
  | .lea _ _ => 0x0000#16
  | .st _ _ => 0x0000#16
  | .sti _ _ => 0x0000#16
  | .str _ _ _ => 0x0000#16
  | .br _ _ => 0x0000#16
  | .jmp _ => 0x0E3F#16
  | .jsr _ => 0x0000#16
  | .jsrr _ => 0x063F#16
  | .trap _ => 0x0F00#16
  | .getc => 0x0F00#16
  | .out => 0x0F00#16
  | .puts => 0x0F00#16
  | .in_ => 0x0F00#16
  | .putsp => 0x0F00#16
  | .halt => 0x0F00#16
  | .rti => 0x0FFF#16
  | .res => 0x0FFF#16

/-- The instruction of the word whose bits are `w`, numbered as spec/opcode_table.json numbers them. Every row has
16 bits; a number that does not fit in one word is no instruction. -/
def decodeTableWord (nbits w : Nat) : Option Instr :=
  if nbits ≤ 16 ∧ w < 2 ^ 16 then some (decode (BitVec.ofNat 16 w)) else none

end Sys2Proof
end

