-- ==== Sys2Proof/Machine/Trap.lean ====
section
/-! DEFINITION. TRAP and its six services (spec/45_trap.md). No service changes PC, R7 or COND. A service that cannot end
within a step stays in progress in `service`, and the next step goes on with it (log entries 7 and 11). -/

namespace Sys2Proof.Machine

/-! ### The services -/

/-- GETC: one character into R0, no echo; COND unchanged (R122). With no character the core waits (R134, R153). -/
def serviceGetc (s : State) : State :=
  match s.inStream with
  | [] => s.setService (some .getc)
  | c :: cs => ((s.setInStream cs).setService none).setReg Config.ioReg (zext8 c)

/-- OUT: the low byte of R0 (R123). -/
def serviceOut (s : State) : State := s.emit [.char (lowByte (s.reg Config.ioReg))]

/-- What PUTS writes for a cell (R124). -/
def putsCell (w : Word) : List OutEvent := [.char (lowByte w)]

/-- What PUTSP writes for a cell, low byte first, a zero high byte included (R127, R128). -/
def putspCell (w : Word) : List OutEvent := [.char (lowByte w), .char (highByte w)]

/-- The walk of PUTS and PUTSP from an address to the first cell that holds 0x0000, which writes nothing (R124, R127): the
events, and where it would go on if `fuel` cells held no terminator. -/
def walkString (cell : Word → List OutEvent) (m : Memory) : Nat → Word → List OutEvent × Option Word
  | 0, a => ([], some a)
  | fuel + 1, a =>
    if m.read a = 0x0000#16 then ([], none)
    else
      let rest := walkString cell m fuel (a + 1#16)
      (cell (m.read a) ++ rest.1, rest.2)

/-- PUTS from an address (R124, R125). -/
def putsFrom (a : Word) (s : State) : State :=
  let w := walkString putsCell s.mem Config.memWords a
  (s.emit w.1).setService (w.2.map .puts)

/-- PUTS: from the address in R0, which it does not modify (R124, R125). -/
def servicePuts (s : State) : State := putsFrom (s.reg Config.ioReg) s

/-- IN after its prompt: read, echo, store in R0 (R126). With no character the core waits (R134, R153). -/
def awaitIn (s : State) : State :=
  match s.inStream with
  | [] => s.setService (some .in_)
  | c :: cs => (((s.setInStream cs).setService none).emit [.char c]).setReg Config.ioReg (zext8 c)

/-- IN: the prompt, then the character (R126). -/
def serviceIn (s : State) : State := awaitIn (s.emit (s.inPrompt.map .char))

/-- PUTSP from an address: one flush after the walk (R127, R128). -/
def putspFrom (a : Word) (s : State) : State :=
  let w := walkString putspCell s.mem Config.memWords a
  (s.emit (w.1 ++ if w.2.isNone then [.flush] else [])).setService (w.2.map .putsp)

/-- PUTSP: from the address in R0, which it does not modify (R127, R128). -/
def servicePutsp (s : State) : State := putspFrom (s.reg Config.ioReg) s

/-- HALT: clear the running flag, nothing else (R129). -/
def serviceHalt (s : State) : State := s.stop

/-- The handler of a service (R121). -/
def runService : TrapService → State → State
  | .getc => serviceGetc
  | .out => serviceOut
  | .puts => servicePuts
  | .in_ => serviceIn
  | .putsp => servicePutsp
  | .halt => serviceHalt

/-- A service in progress goes on (R134, R153; R125 (f), R128 (g)). -/
def resumeService : Pending → State → State
  | .getc => serviceGetc
  | .in_ => awaitIn
  | .puts a => putsFrom a
  | .putsp a => putspFrom a

/-! ### The instructions -/

/-- TRAP: the service of the vector, or the model-level fault (R120, R130, R152). The fetch and the increment of PC have
happened and the TRAP itself changes nothing. -/
def execTrap (vector : BitVec 8) (s : State) : Host.Outcome State Fault Refusal :=
  match serviceOfVector vector with
  | some t => .next (runService t s)
  | none => .fault (.undefinedTrapVector vector s)

/-- TRAP 0x20 (R122). -/
def execGetc (s : State) : Host.Outcome State Fault Refusal := .next (serviceGetc s)

/-- TRAP 0x21 (R123). -/
def execOut (s : State) : Host.Outcome State Fault Refusal := .next (serviceOut s)

/-- TRAP 0x22 (R124). -/
def execPuts (s : State) : Host.Outcome State Fault Refusal := .next (servicePuts s)

/-- TRAP 0x23 (R126). -/
def execIn (s : State) : Host.Outcome State Fault Refusal := .next (serviceIn s)

/-- TRAP 0x24 (R127). -/
def execPutsp (s : State) : Host.Outcome State Fault Refusal := .next (servicePutsp s)

/-- TRAP 0x25 (R129). -/
def execHalt (s : State) : Host.Outcome State Fault Refusal := .next (serviceHalt s)

end Sys2Proof.Machine
end

