-- ==== Sys2Proof/Machine/Step.lean ====
section
/-! DEFINITION. One step of the execution loop (spec/40_fetch_execute_loop.md R70, R71). -/

namespace Sys2Proof.Machine

/-- One step. Running: fetch the word at PC, increment PC, execute (R71); or, where the instruction before has left a trap
service in progress, go on with that service (R134, R153). Halted is terminal: no fetch, no change (R15, R70). -/
def step (s : State) : Host.Outcome State Fault Refusal :=
  if s.running then
    match s.service with
    | none => exec (decode s.fetchWord) s.advancePc
    | some p => .next (resumeService p s)
  else .next s

/-- `s` with the word `w` where the next step fetches it. A step fetches at PC, when the machine runs and no trap service is
in progress; in State.reset both already hold (log entry 25). -/
def State.withFetchWord (s : State) (nbits w : Nat) : State :=
  { s.writeMem s.pc (BitVec.ofNat 16 (w % 2 ^ nbits)) with running := true, service := none }

end Sys2Proof.Machine
end

