-- ==== Sys2Proof/Machine/Boot.lean ====
section
/-! DEFINITION. The start of a run from the model's five arguments (spec/92_eei_decisions.md, "What a model takes as arguments";
spec/70_reset_and_hazards.md R170 to R179), the environment's supply of characters, and the snapshot interface. -/

namespace Sys2Proof.Machine

/-- What the spec leaves open (R7). -/
structure Params where
  /-- `RESET_GPR` (R173, D11). -/
  gpr : Vector Word 8
  /-- `RESET_COND`, one of P, Z, N (R174, D12). -/
  cond : Flag
  /-- `IMAGE` (R172, D15). -/
  image : List Word
  /-- `IN_STREAM` as far as it is known at the start (R134, D7). -/
  inStream : List Byte
  /-- `IN_PROMPT` (R126, D8). -/
  inPrompt : List Byte
  deriving DecidableEq, Repr

/-- The words of an image copied verbatim to consecutive cells (R172). -/
def loadImage (m : Memory) (at_ : Word) : List Word → Memory
  | [] => m
  | w :: ws => loadImage (m.write at_ w) (at_ + 1#16) ws

/-- The start of a run (R170 to R175, R178). An image of more than 0xD000 words is refused (R172, D15). DESIGN CHOICE: the image
is loaded and PC set to 0x3000 in one act, so the first snapshot shows PC = 0x3000; the source does not say what PC it shows
(R178, log entry 27). -/
def State.start (p : Params) : Host.Outcome State Fault Refusal :=
  if p.image.length ≤ Config.maxImageWords then
    .next
      { regs := p.gpr, pc := Config.loadAddr, cond := p.cond.bits, running := true,
        mem := loadImage [] Config.loadAddr p.image, service := none, inStream := p.inStream, outTrace := [],
        inPrompt := p.inPrompt }
  else .refused (.imageTooLong p.image.length)

/-- The arguments of `State.reset` (log entries 8, 12, 13, 16, 17). -/
def Params.reset : Params where
  gpr := Vector.replicate 8 0x0000#16
  cond := .z
  image := []
  inStream := []
  inPrompt := Config.inPrompt

/-- The environment supplies characters on the input port: "What lifts it: the environment delivering a character"
(R153, R20). An act of the environment, which may come between any two steps. -/
def State.deliver (s : State) (cs : List Byte) : State := s.setInStream (s.inStream ++ cs)

/-- The snapshot interface: "a listing of nonzero addresses and their values" and "a listing of all registers" (R179). -/
structure Snapshot where
  cells : List Cell
  regs : Vector Word 8
  pc : Word
  cond : BitVec 3
  deriving DecidableEq, Repr

/-- The read-only snapshot of a state (R179). The PC of the first one, after the image load, is the model's choice (log entry
27). -/
def State.snapshot (s : State) : Snapshot := ⟨s.mem, s.regs, s.pc, s.cond⟩

end Sys2Proof.Machine
end

