-- ==== Sys2Proof/Safety.lean ====
section
/-! DEFINITION. The terms statements are made in: the invariant, the conditions a run can be in, and what each instruction
may write. -/

namespace Sys2Proof.Machine

/-- What every step keeps: COND has exactly one flag set (R14), memory is in its canonical form, and a halted machine is in
no trap service (R15, R158). -/
structure State.Inv (s : State) : Prop where
  cond : oneHot s.cond = true
  mem : s.mem.wf
  halted : s.running = false → s.service = none

/-- Running, between two instructions: the next step fetches. -/
def State.ready (s : State) : Prop := s.running = true ∧ s.service = none

/-- The stuck condition `InputStarved` (R153). -/
def State.inputStarved (s : State) : Prop :=
  s.running = true ∧ (s.service = some .getc ∨ s.service = some .in_) ∧ s.inStream = []

/-- The register an instruction writes (R11). -/
def destReg : Instr → Option RegNum
  | .addReg dr _ _ => some dr
  | .addImm dr _ _ => some dr
  | .andReg dr _ _ => some dr
  | .andImm dr _ _ => some dr
  | .not dr _ => some dr
  | .ld dr _ => some dr
  | .ldi dr _ => some dr
  | .ldr dr _ _ => some dr
  | .lea dr _ => some dr
  | .st _ _ => none
  | .sti _ _ => none
  | .str _ _ _ => none
  | .br _ _ => none
  | .jmp _ => none
  | .jsr _ => some Config.linkReg
  | .jsrr _ => some Config.linkReg
  | .trap v =>
    if serviceOfVector v = some .getc ∨ serviceOfVector v = some .in_ then some Config.ioReg else none
  | .getc => some Config.ioReg
  | .out => none
  | .puts => none
  | .in_ => some Config.ioReg
  | .putsp => none
  | .halt => none
  | .rti => none
  | .res => none

/-- The address an instruction stores to, from the state it runs in (R94, R100 to R102). -/
def storeAddr (s : State) : Instr → Option Word
  | .addReg _ _ _ => none
  | .addImm _ _ _ => none
  | .andReg _ _ _ => none
  | .andImm _ _ _ => none
  | .not _ _ => none
  | .ld _ _ => none
  | .ldi _ _ => none
  | .ldr _ _ _ => none
  | .lea _ _ => none
  | .st _ off9 => some (s.eaPc9 off9)
  | .sti _ off9 => some (s.eaIndirect off9)
  | .str _ baseR off6 => some (s.eaBase6 baseR off6)
  | .br _ _ => none
  | .jmp _ => none
  | .jsr _ => none
  | .jsrr _ => none
  | .trap _ => none
  | .getc => none
  | .out => none
  | .puts => none
  | .in_ => none
  | .putsp => none
  | .halt => none
  | .rti => none
  | .res => none

/-- The register whose value an instruction stores (R100 to R102). -/
def storedReg : Instr → Option RegNum
  | .addReg _ _ _ => none
  | .addImm _ _ _ => none
  | .andReg _ _ _ => none
  | .andImm _ _ _ => none
  | .not _ _ => none
  | .ld _ _ => none
  | .ldi _ _ => none
  | .ldr _ _ _ => none
  | .lea _ _ => none
  | .st sr _ => some sr
  | .sti sr _ => some sr
  | .str sr _ _ => some sr
  | .br _ _ => none
  | .jmp _ => none
  | .jsr _ => none
  | .jsrr _ => none
  | .trap _ => none
  | .getc => none
  | .out => none
  | .puts => none
  | .in_ => none
  | .putsp => none
  | .halt => none
  | .rti => none
  | .res => none

/-- The instructions that call setcc (R14, R76). -/
def setsCond : Instr → Bool
  | .addReg _ _ _ => true
  | .addImm _ _ _ => true
  | .andReg _ _ _ => true
  | .andImm _ _ _ => true
  | .not _ _ => true
  | .ld _ _ => true
  | .ldi _ _ => true
  | .ldr _ _ _ => true
  | .lea _ _ => true
  | .st _ _ => false
  | .sti _ _ => false
  | .str _ _ _ => false
  | .br _ _ => false
  | .jmp _ => false
  | .jsr _ => false
  | .jsrr _ => false
  | .trap _ => false
  | .getc => false
  | .out => false
  | .puts => false
  | .in_ => false
  | .putsp => false
  | .halt => false
  | .rti => false
  | .res => false

/-- The instructions that write PC beside the increment of the fetch (R12). -/
def writesPc : Instr → Bool
  | .addReg _ _ _ => false
  | .addImm _ _ _ => false
  | .andReg _ _ _ => false
  | .andImm _ _ _ => false
  | .not _ _ => false
  | .ld _ _ => false
  | .ldi _ _ => false
  | .ldr _ _ _ => false
  | .lea _ _ => false
  | .st _ _ => false
  | .sti _ _ => false
  | .str _ _ _ => false
  | .br _ _ => true
  | .jmp _ => true
  | .jsr _ => true
  | .jsrr _ => true
  | .trap _ => false
  | .getc => false
  | .out => false
  | .puts => false
  | .in_ => false
  | .putsp => false
  | .halt => false
  | .rti => false
  | .res => false

/-! ### What an instruction leaves as it was -/

/-- Every cell reads as before. -/
def SameMemory (s t : State) : Prop := ∀ a, t.readMem a = s.readMem a

/-- Every general register holds what it held. -/
def SameRegs (s t : State) : Prop := ∀ q, t.reg q = s.reg q

/-- The running flag and the service in progress are as before. -/
def SameControl (s t : State) : Prop := t.running = s.running ∧ t.service = s.service

/-- The input, the output and IN's prompt are as before. -/
def SamePorts (s t : State) : Prop :=
  t.inStream = s.inStream ∧ t.outTrace = s.outTrace ∧ t.inPrompt = s.inPrompt

/-- The outcome is the next state in which DR holds `v`, COND holds v's flag (R74), and nothing else has changed: no other
register, no cell, not PC (which is already incremented), no control and no port. -/
def WritesResult (o : Host.Outcome State Fault Refusal) (s : State) (dr : RegNum) (v : Word) : Prop :=
  ∃ t, o = .next t ∧ t.reg dr = v ∧ (∀ q, q ≠ dr → t.reg q = s.reg q) ∧
    t.cond = (if v = 0x0000#16 then Flag.bits .z else if v.getLsbD 15 then Flag.bits .n else Flag.bits .p) ∧
    t.pc = s.pc ∧ SameMemory s t ∧ SameControl s t ∧ SamePorts s t

/-- The outcome is the next state in which the cell `a` holds `v` and nothing else has changed. -/
def WritesCell (o : Host.Outcome State Fault Refusal) (s : State) (a v : Word) : Prop :=
  ∃ t, o = .next t ∧ t.readMem a = v ∧ (∀ b, b ≠ a → t.readMem b = s.readMem b) ∧
    SameRegs s t ∧ t.cond = s.cond ∧ t.pc = s.pc ∧ SameControl s t ∧ SamePorts s t

/-- The outcome is the next state with PC at `target` and nothing else changed but, for a call, R7. -/
def Transfers (o : Host.Outcome State Fault Refusal) (s : State) (target : Word) (link : Option Word) : Prop :=
  ∃ t, o = .next t ∧ t.pc = target ∧
    (∀ q, t.reg q = if q = Config.linkReg then link.getD (s.reg q) else s.reg q) ∧
    t.cond = s.cond ∧ SameMemory s t ∧ SameControl s t ∧ SamePorts s t

end Sys2Proof.Machine
end

