-- ==== Sys2Proof/Certificates/Slice0/Obligations.lean ====
section
/-! DEFINITION. The statements about the model, from the numbered rules of spec/. OBLIGATIONS.json lists them with their
titles and their sources. -/

open Sys2Proof Sys2Proof.Machine

/-! ### Encoding (spec/30_encoding.md) -/

/-- The decode-only vectors of spec/95_test_vectors.md section 2.9. The opcode numbers are the spec's decision D1 (log
entry 1). -/
def Obligations.SpecWordsDecodeAsListed : Prop :=
  decode 0x1042#16 = .addReg 0 1 2 ∧ decode 0x107D#16 = .addImm 0 1 0x1D ∧ decode 0x1DBF#16 = .addImm 6 6 0x1F ∧
  decode 0x5020#16 = .andImm 0 0 0 ∧ decode 0x5B45#16 = .andReg 5 5 5 ∧ decode 0x92BF#16 = .not 1 2 ∧
  decode 0x2405#16 = .ld 2 5 ∧ decode 0x21FF#16 = .ld 0 0x1FF ∧ decode 0xA202#16 = .ldi 1 2 ∧
  decode 0x60FF#16 = .ldr 0 3 0x3F ∧ decode 0xE002#16 = .lea 0 2 ∧ decode 0x3803#16 = .st 4 3 ∧
  decode 0xBA01#16 = .sti 5 1 ∧ decode 0x7182#16 = .str 0 6 2 ∧ decode 0x05FD#16 = .br 0b010 0x1FD ∧
  decode 0x0FFF#16 = .br 0b111 0x1FF ∧ decode 0x0000#16 = .br 0b000 0 ∧ decode 0xC1C0#16 = .jmp 7 ∧
  decode 0x4804#16 = .jsr 4 ∧ decode 0x4FFF#16 = .jsr 0x7FF ∧ decode 0x40C0#16 = .jsrr 3 ∧
  decode 0x41C0#16 = .jsrr 7 ∧ decode 0xF025#16 = .halt ∧ decode 0xF121#16 = .out ∧ decode 0x8000#16 = .rti ∧
  decode 0xD000#16 = .res

/-- The opcode map, the formats and the trap vectors of R52, R54 and R59 as patterns over every word: which opcode bits (D1, log
entry 1) select which instruction, with each operand at its bit positions, and which vector selects which service. R59 takes
0x21, 0x25 and the base 0x20 from the source and derives the other numbers from its list order (log entry 28); that a vector of
the table has its service's own constructor is log entry 26. -/
def Obligations.WordPatternsSelectInstructions : Prop :=
  ∀ w : Word,
    (w.extractLsb' 12 4 = 0x0 → decode w = .br (w.extractLsb' 9 3) (w.extractLsb' 0 9)) ∧
    (w.extractLsb' 12 4 = 0x1 → w.getLsbD 5 = false →
      decode w = .addReg (w.extractLsb' 9 3) (w.extractLsb' 6 3) (w.extractLsb' 0 3)) ∧
    (w.extractLsb' 12 4 = 0x1 → w.getLsbD 5 = true →
      decode w = .addImm (w.extractLsb' 9 3) (w.extractLsb' 6 3) (w.extractLsb' 0 5)) ∧
    (w.extractLsb' 12 4 = 0x2 → decode w = .ld (w.extractLsb' 9 3) (w.extractLsb' 0 9)) ∧
    (w.extractLsb' 12 4 = 0x3 → decode w = .st (w.extractLsb' 9 3) (w.extractLsb' 0 9)) ∧
    (w.extractLsb' 12 4 = 0x4 → w.getLsbD 11 = true → decode w = .jsr (w.extractLsb' 0 11)) ∧
    (w.extractLsb' 12 4 = 0x4 → w.getLsbD 11 = false → decode w = .jsrr (w.extractLsb' 6 3)) ∧
    (w.extractLsb' 12 4 = 0x5 → w.getLsbD 5 = false →
      decode w = .andReg (w.extractLsb' 9 3) (w.extractLsb' 6 3) (w.extractLsb' 0 3)) ∧
    (w.extractLsb' 12 4 = 0x5 → w.getLsbD 5 = true →
      decode w = .andImm (w.extractLsb' 9 3) (w.extractLsb' 6 3) (w.extractLsb' 0 5)) ∧
    (w.extractLsb' 12 4 = 0x6 → decode w = .ldr (w.extractLsb' 9 3) (w.extractLsb' 6 3) (w.extractLsb' 0 6)) ∧
    (w.extractLsb' 12 4 = 0x7 → decode w = .str (w.extractLsb' 9 3) (w.extractLsb' 6 3) (w.extractLsb' 0 6)) ∧
    (w.extractLsb' 12 4 = 0x8 → decode w = .rti) ∧
    (w.extractLsb' 12 4 = 0x9 → decode w = .not (w.extractLsb' 9 3) (w.extractLsb' 6 3)) ∧
    (w.extractLsb' 12 4 = 0xA → decode w = .ldi (w.extractLsb' 9 3) (w.extractLsb' 0 9)) ∧
    (w.extractLsb' 12 4 = 0xB → decode w = .sti (w.extractLsb' 9 3) (w.extractLsb' 0 9)) ∧
    (w.extractLsb' 12 4 = 0xC → decode w = .jmp (w.extractLsb' 6 3)) ∧
    (w.extractLsb' 12 4 = 0xD → decode w = .res) ∧
    (w.extractLsb' 12 4 = 0xE → decode w = .lea (w.extractLsb' 9 3) (w.extractLsb' 0 9)) ∧
    (w.extractLsb' 12 4 = 0xF → w.extractLsb' 0 8 = 0x20 → decode w = .getc) ∧
    (w.extractLsb' 12 4 = 0xF → w.extractLsb' 0 8 = 0x21 → decode w = .out) ∧
    (w.extractLsb' 12 4 = 0xF → w.extractLsb' 0 8 = 0x22 → decode w = .puts) ∧
    (w.extractLsb' 12 4 = 0xF → w.extractLsb' 0 8 = 0x23 → decode w = .in_) ∧
    (w.extractLsb' 12 4 = 0xF → w.extractLsb' 0 8 = 0x24 → decode w = .putsp) ∧
    (w.extractLsb' 12 4 = 0xF → w.extractLsb' 0 8 = 0x25 → decode w = .halt) ∧
    (w.extractLsb' 12 4 = 0xF → (w.extractLsb' 0 8).toNat < 0x20 ∨ 0x25 < (w.extractLsb' 0 8).toNat →
      decode w = .trap (w.extractLsb' 0 8))

/-- Decoding undoes encoding, for every well-formed instruction with every operand. -/
def Obligations.DecodeUndoesEncode : Prop :=
  ∀ i : Instr, i.wellFormed = true → decode (encode i) = i

/-- Encoding the instruction of a word gives the word back but for the bits its format ignores, so decoding drops no bit that
a format names (R54, R57). -/
def Obligations.EncodeOfDecodeKeepsNamedBits : Prop :=
  ∀ w : Word, encode (decode w) &&& ~~~(decode w).ignoredBits = w &&& ~~~(decode w).ignoredBits

/-- Words that differ in ignored bits only decode alike (R57; the spec's decision D17, log entry 18). -/
def Obligations.IgnoredBitsHaveNoEffect : Prop :=
  ∀ w m : Word, decode (w ^^^ (m &&& (decode w).ignoredBits)) = decode w

/-- Every word decodes to a well-formed instruction and what a ready machine runs depends on the word alone (R51). The third
clause, that in every state a word completes unless it is a TRAP outside the table, is the model's: that GETC and IN on empty
input answer a next state is log entry 7, that PUTS and PUTSP without a zero cell do is log entry 11, and that a TRAP outside
0x20..0x25 need not is the spec's decision D4 (log entry 4). -/
def Obligations.EveryWordDecodes : Prop :=
  (∀ w : Word, (decode w).wellFormed = true) ∧
  (∀ s : State, s.ready → step s = exec (decode s.fetchWord) s.advancePc) ∧
  (∀ (w : Word) (s : State), (∃ t, exec (decode w) s = .next t) ∨
    ((decode w).opcode = .trap ∧ ((w.extractLsb' 0 8).toNat < 0x20 ∨ 0x25 < (w.extractLsb' 0 8).toNat)))

/-- R55: the definition of sign extension, the round trip the source states, the sign, and the rule's examples. -/
def Obligations.SignExtensionKeepsFieldAndSign : Prop :=
  (∀ n : Nat, n = 5 ∨ n = 6 ∨ n = 9 ∨ n = 11 → ∀ v : BitVec n,
    (v.msb = true → sext v = v.setWidth 16 ||| (0xFFFF#16 <<< n)) ∧
    (v.msb = false → sext v = v.setWidth 16) ∧
    (sext v).setWidth n = v ∧ (sext v).toInt = v.toInt) ∧
  sext 0x1D#5 = 0xFFFD#16 ∧ sext 0x0F#5 = 0x000F#16 ∧ sext 0x10#5 = 0xFFF0#16 ∧ sext 0x20#6 = 0xFFE0#16 ∧
  sext 0x100#9 = 0xFF00#16 ∧ sext 0x0FF#9 = 0x00FF#16 ∧ sext 0x400#11 = 0xFC00#16 ∧ sext 0x3FF#11 = 0x03FF#16

/-! ### Memory (spec/20_memory.md) -/

/-- R31: after any sequence of writes a cell reads as the most recent write to it, or, if there was none, as before the
sequence; and in a memory nothing has written, as its reset value. -/
def Obligations.ReadReturnsMostRecentWrite : Prop :=
  (∀ (m : Memory) (ws : List (Word × Word)) (a : Word),
    (ws.foldl (fun acc w => acc.write w.1 w.2) m).read a =
      match ws.reverse.find? (fun w => w.1 == a) with
      | some w => w.2
      | none => m.read a) ∧
  ∀ a : Word, State.reset.readMem a = 0x0000#16

/-- R32: a write leaves the word in its cell and every other cell as it was, at every address. -/
def Obligations.WriteChangesExactlyOneCell : Prop :=
  ∀ (s : State) (addr v : Word),
    (s.writeMem addr v).readMem addr = v ∧ ∀ b, b ≠ addr → (s.writeMem addr v).readMem b = s.readMem b

/-- Two memories in canonical form that read alike at every address are the same data (log entry 24). -/
def Obligations.CanonicalMemoriesReadingAlikeAreEqual : Prop :=
  ∀ m m' : Memory, m.wf → m'.wf → (∀ a : Word, m.read a = m'.read a) → m = m'

/-- Every effective address is the exact sum modulo 2^16 (R33, R94). -/
def Obligations.EffectiveAddressesWrap : Prop :=
  ∀ s : State,
    (∀ off9, ((s.eaPc9 off9).toNat : Int) = (s.pc.toNat + off9.toInt) % 65536) ∧
    (∀ off11, ((s.eaPc11 off11).toNat : Int) = (s.pc.toNat + off11.toInt) % 65536) ∧
    (∀ baseR off6, ((s.eaBase6 baseR off6).toNat : Int) = ((s.reg baseR).toNat + off6.toInt) % 65536) ∧
    (∀ off9, s.eaIndirect off9 = s.readMem (s.eaPc9 off9))

/-- A store to the address in PC is what the next fetch reads: R43, which the spec derives (its decision D20, log entry 21). That
the stored word is the register's value is its decision D3 (log entry 3). -/
def Obligations.StoreIsSeenByNextFetch : Prop :=
  ∀ (i : Instr) (s : State) (sr : RegNum), storedReg i = some sr → storeAddr s i = some s.pc →
    ∃ t, exec i s = .next t ∧ t.fetchWord = s.reg sr

/-! ### Reset (spec/70_reset_and_hazards.md) -/

/-- R171: whatever the parameters, a run starts at 0x3000 and the first instruction is the first word of the image. -/
def Obligations.RunStartsAtLoadAddress : Prop :=
  State.reset.pc = 0x3000#16 ∧
  ∀ (p : Params) (s : State), State.start p = .next s →
    s.pc = 0x3000#16 ∧ ∀ w ws, p.image = w :: ws → s.fetchWord = w ∧ step s = exec (decode w) s.advancePc

/-- R170, R172 to R175 with the length bound of the spec's decision D15 (log entry 16): a start leaves the image verbatim from
0x3000, zero everywhere else, and every other piece of state at its parameter; a longer image is refused. -/
def Obligations.StartPlacesImageVerbatim : Prop :=
  ∀ p : Params,
    (p.image.length ≤ 0xD000 → ∃ s, State.start p = .next s ∧
      (∀ (k : Nat) (h : k < p.image.length), s.readMem (0x3000#16 + BitVec.ofNat 16 k) = p.image[k]) ∧
      (∀ a : Word, a.toNat < 0x3000 ∨ 0x3000 + p.image.length ≤ a.toNat → s.readMem a = 0x0000#16) ∧
      s.regs = p.gpr ∧ s.cond = p.cond.bits ∧ s.running = true ∧ s.service = none ∧
      s.inStream = p.inStream ∧ s.outTrace = [] ∧ s.inPrompt = p.inPrompt) ∧
    (0xD000 < p.image.length → State.start p = .refused (.imageTooLong p.image.length))

/-- The invariant holds at reset, the loop is Running (R170) and the output is empty (R175); and reset is the start of a run from
the model's parameters. Those are the model's choice: R0..R7 = 0x0000 (log entry 12), COND = Z (log entry 13), the empty image
(log entry 16), the empty input (log entry 17) and the prompt Config.inPrompt, a free value (log entry 8); so is the field
service, none at reset (log entries 7 and 11). -/
def Obligations.ResetMeetsInvariant : Prop :=
  State.reset.Inv ∧ State.reset.ready ∧ State.reset.outTrace = [] ∧
  State.start Params.reset = .next State.reset ∧
  (∀ q, State.reset.reg q = 0x0000#16) ∧ State.reset.cond = Flag.bits .z ∧ Params.reset.image = [] ∧
  State.reset.inStream = [] ∧ State.reset.inPrompt = Config.inPrompt

/-- The invariant holds at every start, whatever the parameters. -/
def Obligations.EveryStartMeetsInvariant : Prop :=
  ∀ (p : Params) (s : State), State.start p = .next s → s.Inv ∧ s.ready

/-- Every step keeps the invariant: COND one-hot (R14), memory canonical, a halted machine in no service. -/
def Obligations.StepKeepsInvariant : Prop :=
  ∀ s t : State, s.Inv → step s = .next t → t.Inv

/-! ### The loop and the flags (spec/40_fetch_execute_loop.md) -/

/-- R71: a step of a machine that is ready fetches the word at PC, increments PC modulo 2^16 and executes what the word decodes
to, an instruction of the executor that the opcode field selects. -/
def Obligations.StepRunsDecodedInstruction : Prop :=
  (∀ s : State, s.ready → step s = exec (decode (s.readMem s.pc)) { s with pc := s.pc + 1#16 }) ∧
  ∀ w : Word, (decode w).opcode = opcodeOfBits (w.extractLsb' 12 4)

/-- withFetchWord places the word that the very next step runs (log entry 25). -/
def Obligations.PlacedWordRunsNext : Prop :=
  ∀ (s : State) (w : Word), ∃ t, step (s.withFetchWord 16 w.toNat) = exec (decode w) t ∧
    t.pc = s.pc + 1#16 ∧ SameRegs s t ∧ t.cond = s.cond ∧ SamePorts s t ∧ t.ready ∧
    ∀ a, t.readMem a = if a = s.pc then w else s.readMem a

/-- R74 and R75: setcc sets exactly one flag, from the value alone; the boundary values. -/
def Obligations.SetccSetsExactlyOneFlag : Prop :=
  (∀ (s : State) (v : Word),
    (v = 0x0000#16 → (s.setcc v).cond = Flag.bits .z) ∧
    (v.getLsbD 15 = true → (s.setcc v).cond = Flag.bits .n) ∧
    (v ≠ 0x0000#16 → v.getLsbD 15 = false → (s.setcc v).cond = Flag.bits .p) ∧
    oneHot (s.setcc v).cond = true ∧
    ∀ s' : State, (s'.setcc v).cond = (s.setcc v).cond) ∧
  ∀ s : State, (s.setcc 0x0000#16).cond = Flag.bits .z ∧ (s.setcc 0x0001#16).cond = Flag.bits .p ∧
    (s.setcc 0x7FFF#16).cond = Flag.bits .p ∧ (s.setcc 0x8000#16).cond = Flag.bits .n ∧
    (s.setcc 0xFFFF#16).cond = Flag.bits .n

/-- R76: exactly ADD, AND, NOT, LD, LDI, LDR and LEA set COND, each from the value it has written to its destination register;
every other instruction, and a trap service that goes on, leaves COND as it was. -/
def Obligations.ExactlySevenInstructionsSetCond : Prop :=
  (∀ i : Instr, setsCond i = true ↔
    i.opcode ∈ [Opcode.add, Opcode.and, Opcode.not, Opcode.ld, Opcode.ldi, Opcode.ldr, Opcode.lea]) ∧
  (∀ (i : Instr) (s t : State), exec i s = .next t →
    (setsCond i = true → ∃ dr, destReg i = some dr ∧ t.cond = (s.setcc (t.reg dr)).cond) ∧
    (setsCond i = false → t.cond = s.cond)) ∧
  ∀ (p : Pending) (s : State), (resumeService p s).cond = s.cond

/-- COND is read by BR only (R14): another COND before any other instruction changes nothing but COND after it. -/
def Obligations.CondIsReadByBrOnly : Prop :=
  ∀ (i : Instr) (s t : State) (c : BitVec 3), (∀ mask off9, i ≠ .br mask off9) → exec i s = .next t →
    ∃ t', exec i { s with cond := c } = .next t' ∧ { t' with cond := t.cond } = t ∧
      t'.cond = if setsCond i then t.cond else c

/-- R15, R129: running is true at every start; only the step that runs a HALT changes it, from true to false; and a halted
machine never changes again (D23, log entry 23). -/
def Obligations.OnlyHaltEndsTheRun : Prop :=
  (∀ (p : Params) (s : State), State.start p = .next s → s.running = true) ∧
  (∀ s t : State, step s = .next t → t.running ≠ s.running →
    s.running = true ∧ t.running = false ∧ s.service = none ∧ decode s.fetchWord = .halt) ∧
  ∀ s : State, s.running = false → ∀ n : Nat, core.run n s = .next s

/-- How each instruction leaves PC (R12), from the address `s.pc` it was fetched from. -/
def Obligations.PcAfterEachInstruction : Prop :=
  ∀ s t : State, s.ready → step s = .next t →
    t.pc = match decode s.fetchWord with
      | .br mask off9 => if s.cond &&& mask ≠ 0#3 then s.pc + 1#16 + sext off9 else s.pc + 1#16
      | .jmp baseR => s.reg baseR
      | .jsr off11 => s.pc + 1#16 + sext off11
      | .jsrr baseR => if baseR = 7#3 then s.pc + 1#16 else s.reg baseR
      | _ => s.pc + 1#16

/-- What no instruction touches: only its destination register (R11), only the cell it stores to (R41), PC only if it is a
control transfer (R12), COND only if it calls setcc (R14, R76), running and the ports only if it is a TRAP (R15, R19, R20). That
none touches IN's prompt is log entry 8, and that only a TRAP puts a service in progress log entries 7 and 11. -/
def Obligations.ExecChangesOnlyWhatTheTablesName : Prop :=
  ∀ (i : Instr) (s t : State), exec i s = .next t →
    (∀ q, destReg i ≠ some q → t.reg q = s.reg q) ∧
    (∀ a, storeAddr s i ≠ some a → t.readMem a = s.readMem a) ∧
    (writesPc i = false → t.pc = s.pc) ∧
    (setsCond i = false → t.cond = s.cond) ∧
    (i.opcode ≠ .trap → SameControl s t ∧ SamePorts s t) ∧
    t.inPrompt = s.inPrompt

/-! ### Operate (spec/41_operate.md) -/

/-- ADD, both forms: DR gets the low 16 bits of the true sum, COND its flag (R80, R81, R85). -/
def Obligations.AddWritesSumModulo : Prop :=
  ∀ (s : State) (dr sr1 : RegNum),
    (∀ sr2, ∃ v, WritesResult (exec (.addReg dr sr1 sr2) s) s dr v ∧
      v.toNat = ((s.reg sr1).toNat + (s.reg sr2).toNat) % 65536) ∧
    (∀ imm5, ∃ v, WritesResult (exec (.addImm dr sr1 imm5) s) s dr v ∧
      (v.toNat : Int) = ((s.reg sr1).toNat + imm5.toInt) % 65536)

/-- AND, both forms: bit by bit, on register values (R82, D3, log entry 3; R83). -/
def Obligations.AndWritesBitwiseAnd : Prop :=
  ∀ (s : State) (dr sr1 : RegNum),
    (∀ sr2, ∃ v, WritesResult (exec (.andReg dr sr1 sr2) s) s dr v ∧
      ∀ k, v.getLsbD k = ((s.reg sr1).getLsbD k && (s.reg sr2).getLsbD k)) ∧
    (∀ imm5, ∃ v, WritesResult (exec (.andImm dr sr1 imm5) s) s dr v ∧
      ∀ k, v.getLsbD k = ((s.reg sr1).getLsbD k && (if k < 5 then imm5.getLsbD k else imm5.msb)))

/-- NOT: every one of the 16 bits of the register's value is inverted (R84, D3, log entry 3). -/
def Obligations.NotInvertsEveryBit : Prop :=
  ∀ (s : State) (dr sr1 : RegNum), ∃ v, WritesResult (exec (.not dr sr1) s) s dr v ∧
    ∀ k, k < 16 → v.getLsbD k = !(s.reg sr1).getLsbD k

/-! ### Loads (spec/42_load.md) -/

/-- LD (R90). -/
def Obligations.LdLoadsPcRelative : Prop :=
  ∀ (s : State) (dr : RegNum) (off9 : BitVec 9),
    WritesResult (exec (.ld dr off9) s) s dr (s.readMem (s.pc + sext off9))

/-- LDI: the word at the address that the pointer cell holds (R91). -/
def Obligations.LdiLoadsThroughPointer : Prop :=
  ∀ (s : State) (dr : RegNum) (off9 : BitVec 9),
    WritesResult (exec (.ldi dr off9) s) s dr (s.readMem (s.readMem (s.pc + sext off9)))

/-- LDR: the address uses the base register's old value, DR = BaseR included (R92). -/
def Obligations.LdrLoadsBasePlusOffset : Prop :=
  ∀ (s : State) (dr baseR : RegNum) (off6 : BitVec 6),
    WritesResult (exec (.ldr dr baseR off6) s) s dr (s.readMem (s.reg baseR + sext off6))

/-- LEA: the address itself; memory untouched; COND set (R93). -/
def Obligations.LeaWritesAddress : Prop :=
  ∀ (s : State) (dr : RegNum) (off9 : BitVec 9), WritesResult (exec (.lea dr off9) s) s dr (s.pc + sext off9)

/-! ### Stores (spec/43_store.md); the stored word is the register's value (D3, log entry 3) -/

/-- ST (R100). -/
def Obligations.StStoresPcRelative : Prop :=
  ∀ (s : State) (sr : RegNum) (off9 : BitVec 9), WritesCell (exec (.st sr off9) s) s (s.pc + sext off9) (s.reg sr)

/-- STI: the cell that the pointer names, the pointer read before the write (R101). -/
def Obligations.StiStoresThroughPointer : Prop :=
  ∀ (s : State) (sr : RegNum) (off9 : BitVec 9),
    WritesCell (exec (.sti sr off9) s) s (s.readMem (s.pc + sext off9)) (s.reg sr)

/-- STR (R102). -/
def Obligations.StrStoresBasePlusOffset : Prop :=
  ∀ (s : State) (sr baseR : RegNum) (off6 : BitVec 6),
    WritesCell (exec (.str sr baseR off6) s) s (s.reg baseR + sext off6) (s.reg sr)

/-! ### Control (spec/44_control.md) -/

/-- BR: taken exactly when COND meets the mask (R110). -/
def Obligations.BrBranchesIfCondMeetsMask : Prop :=
  ∀ (s : State) (mask : BitVec 3) (off9 : BitVec 9),
    Transfers (exec (.br mask off9) s) s (if s.cond &&& mask ≠ 0#3 then s.pc + sext off9 else s.pc) none

/-- The eight masks against the three flags (R111): mask 000 never branches, 111 always, and each single bit of ir[11:9] tests
its flag: n, z, p. The flags setcc writes are at the bits that the mask tests: N 100, Z 010, P 001 (R13; the pairing is the
spec's decision D2, log entry 2). -/
def Obligations.BranchMaskTable : Prop :=
  Flag.bits .n = 0b100#3 ∧ Flag.bits .z = 0b010#3 ∧ Flag.bits .p = 0b001#3 ∧
  ∀ (s : State) (mask : BitVec 3) (off9 : BitVec 9), oneHot s.cond = true →
    Transfers (exec (.br mask off9) s) s
      (if (mask.getLsbD 2 = true ∧ s.cond = 0b100#3) ∨ (mask.getLsbD 1 = true ∧ s.cond = 0b010#3) ∨
          (mask.getLsbD 0 = true ∧ s.cond = 0b001#3) then s.pc + sext off9 else s.pc) none ∧
    Transfers (exec (.br 0b000#3 off9) s) s s.pc none ∧
    Transfers (exec (.br 0b111#3 off9) s) s (s.pc + sext off9) none

/-- JMP (R112). -/
def Obligations.JmpGoesToBaseRegister : Prop :=
  ∀ (s : State) (baseR : RegNum), Transfers (exec (.jmp baseR) s) s (s.reg baseR) none

/-- JSR: R7 gets the incremented PC, and the target is relative to it (R113). -/
def Obligations.JsrLinksAndBranches : Prop :=
  ∀ (s : State) (off11 : BitVec 11), Transfers (exec (.jsr off11) s) s (s.pc + sext off11) (some s.pc)

/-- JSRR: R7 is written first, so JSRR R7 falls through; any other base is the target (R114; the order is the spec's decision D18,
log entry 19). -/
def Obligations.JsrrLinksBeforeReadingBase : Prop :=
  ∀ (s : State) (baseR : RegNum),
    Transfers (exec (.jsrr baseR) s) s (if baseR = 7#3 then s.pc else s.reg baseR) (some s.pc)

/-! ### TRAP (spec/45_trap.md) -/

/-- TRAP with a vector of the table runs that vector's service, so it completes as the service does (R120, R121; the vector
numbers are in part the spec's derivation, log entry 28); that it leaves R7 alone is the spec's decision D5 (log entry 5). That each service answers a next state in every state is the model's: for GETC
and IN on empty input log entry 7, for PUTS and PUTSP without a zero cell log entry 11. -/
def Obligations.TrapRunsServiceOfVector : Prop :=
  ∀ s : State,
    exec (.trap 0x20#8) s = exec .getc s ∧ exec (.trap 0x21#8) s = exec .out s ∧
    exec (.trap 0x22#8) s = exec .puts s ∧ exec (.trap 0x23#8) s = exec .in_ s ∧
    exec (.trap 0x24#8) s = exec .putsp s ∧ exec (.trap 0x25#8) s = exec .halt s ∧
    ∀ v : BitVec 8, 0x20 ≤ v.toNat → v.toNat ≤ 0x25 → ∃ t, exec (.trap v) s = .next t ∧
      t.pc = s.pc ∧ t.cond = s.cond ∧ SameMemory s t ∧ ∀ q, q ≠ 0#3 → t.reg q = s.reg q

/-- TRAP with any other vector stops in the model-level fault, PC incremented and nothing else changed (R130, R152; the spec's
decision D4, log entry 4). -/
def Obligations.TrapOutsideTableFaults : Prop :=
  ∀ (s : State) (v : BitVec 8), v.toNat < 0x20 ∨ 0x25 < v.toNat →
    exec (.trap v) s = .fault (.undefinedTrapVector v s)

/-- A step faults exactly when a ready machine fetches a TRAP word whose vector is outside the table (R152, D4, log entry 4);
and no step is refused. -/
def Obligations.StepStopsOnlyAtUndefinedTrap : Prop :=
  ∀ s : State,
    (∀ f, step s = .fault f ↔ s.ready ∧ (decode s.fetchWord).opcode = .trap ∧
      ((fieldVector s.fetchWord).toNat < 0x20 ∨ 0x25 < (fieldVector s.fetchWord).toNat) ∧
      f = .undefinedTrapVector (fieldVector s.fetchWord) s.advancePc) ∧
    ∀ r, step s ≠ .refused r

/-- GETC with a character: R0 gets it zero-extended, COND is unchanged (D6, log entry 6), nothing is written out (R122). -/
def Obligations.GetcReadsOneCharacter : Prop :=
  ∀ (s : State) (c : Byte) (cs : List Byte), s.inStream = c :: cs →
    ∃ t, exec .getc s = .next t ∧ (t.reg 0#3).toNat = c.toNat ∧ (∀ q, q ≠ 0#3 → t.reg q = s.reg q) ∧
      t.inStream = cs ∧ t.outTrace = s.outTrace ∧ t.inPrompt = s.inPrompt ∧ t.service = none ∧
      t.running = s.running ∧ t.cond = s.cond ∧ t.pc = s.pc ∧ SameMemory s t

/-- OUT: bits 7:0 of R0 (R123). -/
def Obligations.OutWritesLowByte : Prop :=
  ∀ s : State, ∃ (t : State) (b : Byte), exec .out s = .next t ∧ b.toNat = (s.reg 0#3).toNat % 256 ∧
    t.outTrace = s.outTrace ++ [.char b] ∧ t.inStream = s.inStream ∧ t.inPrompt = s.inPrompt ∧
    SameControl s t ∧ SameRegs s t ∧ t.cond = s.cond ∧ t.pc = s.pc ∧ SameMemory s t

/-- PUTS: the low byte of every cell from R0 up to the first zero cell, the pointer modulo 2^16; no flush; nothing else changes
(R124; R125 is the spec's decision D9, log entry 9). -/
def Obligations.PutsWritesUntilZeroCell : Prop :=
  ∀ (s : State) (n : Nat), n < 65536 →
    (∀ k, k < n → s.readMem (s.reg 0#3 + BitVec.ofNat 16 k) ≠ 0x0000#16) →
    s.readMem (s.reg 0#3 + BitVec.ofNat 16 n) = 0x0000#16 →
    ∃ t, exec .puts s = .next t ∧
      t.outTrace = s.outTrace ++
        (List.range n).map (fun k => .char ((s.readMem (s.reg 0#3 + BitVec.ofNat 16 k)).setWidth 8)) ∧
      t.inStream = s.inStream ∧ t.inPrompt = s.inPrompt ∧ t.service = none ∧ t.running = s.running ∧
      SameRegs s t ∧ t.cond = s.cond ∧ t.pc = s.pc ∧ SameMemory s t

/-- IN with a character: the prompt, whatever it is, then the echo; R0 gets the character zero-extended; COND unchanged (R126; D6,
D8, log entries 6 and 8). -/
def Obligations.InPromptsReadsAndEchoes : Prop :=
  ∀ (s : State) (c : Byte) (cs : List Byte), s.inStream = c :: cs →
    ∃ t, exec .in_ s = .next t ∧ (t.reg 0#3).toNat = c.toNat ∧ (∀ q, q ≠ 0#3 → t.reg q = s.reg q) ∧
      t.inStream = cs ∧ t.outTrace = s.outTrace ++ s.inPrompt.map .char ++ [.char c] ∧
      t.inPrompt = s.inPrompt ∧ t.service = none ∧ t.running = s.running ∧ t.cond = s.cond ∧ t.pc = s.pc ∧
      SameMemory s t

/-- PUTSP: two characters of every cell, low byte first, up to the first zero cell, then one flush (R127; R128 is the spec's
decision D10, log entry 10). -/
def Obligations.PutspWritesPackedUntilZeroCell : Prop :=
  ∀ (s : State) (n : Nat), n < 65536 →
    (∀ k, k < n → s.readMem (s.reg 0#3 + BitVec.ofNat 16 k) ≠ 0x0000#16) →
    s.readMem (s.reg 0#3 + BitVec.ofNat 16 n) = 0x0000#16 →
    ∃ t, exec .putsp s = .next t ∧
      t.outTrace = s.outTrace ++
        (List.range n).flatMap (fun k =>
          [.char ((s.readMem (s.reg 0#3 + BitVec.ofNat 16 k)).setWidth 8),
            .char ((s.readMem (s.reg 0#3 + BitVec.ofNat 16 k) >>> 8).setWidth 8)]) ++ [.flush] ∧
      t.inStream = s.inStream ∧ t.inPrompt = s.inPrompt ∧ t.service = none ∧ t.running = s.running ∧
      SameRegs s t ∧ t.cond = s.cond ∧ t.pc = s.pc ∧ SameMemory s t

/-- HALT: running becomes false and nothing else changes (R129; no message, D22, log entry 22). -/
def Obligations.HaltClearsRunningOnly : Prop :=
  ∀ s : State, ∃ t, exec .halt s = .next t ∧ t.running = false ∧ { t with running := s.running } = s

/-- GETC and IN with no character wait, each in its own service, running still true; IN's prompt has been written, and nothing
else has changed (R134, R153; D7, log entry 7). -/
def Obligations.GetcAndInWaitForInput : Prop :=
  ∀ s : State, s.inStream = [] → s.running = true →
    (∃ t, exec .getc s = .next t ∧ t.inputStarved ∧ t.service = some .getc ∧ { t with service := s.service } = s) ∧
    (∃ t, exec .in_ s = .next t ∧ t.inputStarved ∧ t.service = some .in_ ∧
      t.outTrace = s.outTrace ++ s.inPrompt.map .char ∧ { t with service := s.service, outTrace := s.outTrace } = s)

/-- A core that waits for input stays as it is for any number of steps, and the next step after the environment delivers a
character completes the service as R122 and R126 say: the character zero-extended in R0, COND unchanged, IN's echo (R153; D7,
log entry 7; D6, log entry 6; that characters may be delivered between steps is log entry 17). -/
def Obligations.StarvedCoreWaitsUntilDelivery : Prop :=
  ∀ s : State, s.inputStarved →
    (∀ n : Nat, core.run n s = .next s) ∧
    ∀ (c : Byte) (cs : List Byte), ∃ t, step (s.deliver (c :: cs)) = .next t ∧
      t.service = none ∧ t.inStream = cs ∧ (t.reg 0#3).toNat = c.toNat ∧ (∀ q, q ≠ 0#3 → t.reg q = s.reg q) ∧
      t.outTrace = s.outTrace ++ (if s.service = some .in_ then [.char c] else []) ∧
      t.running = true ∧ t.cond = s.cond ∧ t.pc = s.pc ∧ t.inPrompt = s.inPrompt ∧ SameMemory s t

/-- PUTS and PUTSP over a memory with no zero cell never end: however many steps run, the machine is still running and still in
the service (R125 (f), R128 (g), R154; log entry 11). -/
def Obligations.StringServiceWithoutTerminatorNeverEnds : Prop :=
  ∀ s : State, s.running = true → (∀ a, s.readMem a ≠ 0x0000#16) →
    (∃ t, exec .puts s = .next t ∧ t.service = some (.puts (s.reg 0#3))) ∧
    (∃ t, exec .putsp s = .next t ∧ t.service = some (.putsp (s.reg 0#3))) ∧
    ∀ a : Word, s.service = some (.puts a) ∨ s.service = some (.putsp a) →
      ∀ n : Nat, ∃ t : State, core.run n s = .next t ∧ t.running = true ∧ t.service = s.service ∧ t.pc = s.pc ∧
        s.outTrace.length + 65536 * n ≤ t.outTrace.length

/-- The ports keep order: a step only appends to the output, and takes at most the first character of the input (R134, R135,
R20). -/
def Obligations.StepAppendsOutputAndConsumesInOrder : Prop :=
  ∀ s t : State, step s = .next t →
    (∃ es, t.outTrace = s.outTrace ++ es) ∧ (t.inStream = s.inStream ∨ ∃ c, s.inStream = c :: t.inStream)

/-! ### Reserved opcodes (spec/46_reserved.md) and the snapshot (spec/70_reset_and_hazards.md R179) -/

/-- RTI and RES are no-ops: after a step that fetches one, PC is incremented and nothing else has changed (R140, R141; which words
they are is the spec's decision D1, log entry 1). -/
def Obligations.ReservedOpcodesAreNoOps : Prop :=
  ∀ s : State,
    exec .rti s = .next s ∧ exec .res s = .next s ∧
    (s.ready → s.fetchWord.extractLsb' 12 4 = 0x8#4 ∨ s.fetchWord.extractLsb' 12 4 = 0xD#4 →
      step s = .next { s with pc := s.pc + 1#16 })

/-- The snapshot lists exactly the addresses that hold a nonzero word, with their words, and every register (R179). -/
def Obligations.SnapshotListsNonzeroCells : Prop :=
  ∀ s : State, s.Inv →
    (∀ a v : Word, (a.toNat, v) ∈ s.snapshot.cells ↔ v ≠ 0x0000#16 ∧ s.readMem a = v) ∧
    s.snapshot.regs = s.regs ∧ s.snapshot.pc = s.pc ∧ s.snapshot.cond = s.cond
end

