-- ==== Sys2Proof/Laws/PerInstr.lean ====
section
/-! SUPPORT. Facts about every instruction as syntax, one lemma per constructor. -/

/-! The opcode field of an instruction's word selects its executor (spec/30_encoding.md R52). -/

namespace Sys2Proof.Laws.OpcodeOfEncoding

/-- Bits 15:12 of the encoded instruction are the opcode of its executor. -/
def Statement (i : Instr) : Prop := opcodeOfBits (fieldOpcode (encode i)) = i.opcode

theorem opcodeOfBits_bitsOfOpcode (o : Opcode) : opcodeOfBits (bitsOfOpcode o) = o := by cases o <;> decide

theorem fieldOpcode_assemble (o : Opcode) (low : BitVec 12) : fieldOpcode (assemble o low) = bitsOfOpcode o := by
  rw [fieldOpcode, assemble, BitVec.extractLsb'_append_eq_of_le (by decide)]
  exact BitVec.extractLsb'_eq_self

theorem opcode_assemble (o : Opcode) (low : BitVec 12) : opcodeOfBits (fieldOpcode (assemble o low)) = o := by
  rw [fieldOpcode_assemble, opcodeOfBits_bitsOfOpcode]

theorem addReg (dr sr1 sr2 : RegNum) : Statement (.addReg dr sr1 sr2) := opcode_assemble _ _

theorem addImm (dr sr1 : RegNum) (imm5 : BitVec 5) : Statement (.addImm dr sr1 imm5) := opcode_assemble _ _

theorem andReg (dr sr1 sr2 : RegNum) : Statement (.andReg dr sr1 sr2) := opcode_assemble _ _

theorem andImm (dr sr1 : RegNum) (imm5 : BitVec 5) : Statement (.andImm dr sr1 imm5) := opcode_assemble _ _

theorem not (dr sr1 : RegNum) : Statement (.not dr sr1) := opcode_assemble _ _

theorem ld (dr : RegNum) (off9 : BitVec 9) : Statement (.ld dr off9) := opcode_assemble _ _

theorem ldi (dr : RegNum) (off9 : BitVec 9) : Statement (.ldi dr off9) := opcode_assemble _ _

theorem ldr (dr baseR : RegNum) (off6 : BitVec 6) : Statement (.ldr dr baseR off6) := opcode_assemble _ _

theorem lea (dr : RegNum) (off9 : BitVec 9) : Statement (.lea dr off9) := opcode_assemble _ _

theorem st (sr : RegNum) (off9 : BitVec 9) : Statement (.st sr off9) := opcode_assemble _ _

theorem sti (sr : RegNum) (off9 : BitVec 9) : Statement (.sti sr off9) := opcode_assemble _ _

theorem str (sr baseR : RegNum) (off6 : BitVec 6) : Statement (.str sr baseR off6) := opcode_assemble _ _

theorem br (mask : BitVec 3) (off9 : BitVec 9) : Statement (.br mask off9) := opcode_assemble _ _

theorem jmp (baseR : RegNum) : Statement (.jmp baseR) := opcode_assemble _ _

theorem jsr (off11 : BitVec 11) : Statement (.jsr off11) := opcode_assemble _ _

theorem jsrr (baseR : RegNum) : Statement (.jsrr baseR) := opcode_assemble _ _

theorem trap (vector : BitVec 8) : Statement (.trap vector) := opcode_assemble _ _

theorem getc : Statement .getc := opcode_assemble _ _

theorem out : Statement .out := opcode_assemble _ _

theorem puts : Statement .puts := opcode_assemble _ _

theorem in_ : Statement .in_ := opcode_assemble _ _

theorem putsp : Statement .putsp := opcode_assemble _ _

theorem halt : Statement .halt := opcode_assemble _ _

theorem rti : Statement .rti := opcode_assemble _ _

theorem res : Statement .res := opcode_assemble _ _

end Sys2Proof.Laws.OpcodeOfEncoding
end

