-- ==== Sys2Proof/Laws/Decode.lean ====
section
/-! SUPPORT. The fields of an assembled word (spec/30_encoding.md R53, R54): the extractors read back what each format put in. -/

namespace Sys2Proof

theorem bitsOfOpcode_opcodeOfBits (b : BitVec 4) : bitsOfOpcode (opcodeOfBits b) = b := by revert b; decide

/-- Every word is its opcode and its low twelve bits. -/
theorem assemble_fields (w : Word) : assemble (opcodeOfBits (fieldOpcode w)) (w.extractLsb' 0 12) = w := by
  rw [assemble, bitsOfOpcode_opcodeOfBits, fieldOpcode, BitVec.extractLsb'_append_extractLsb'_eq_extractLsb' (by omega)]
  exact BitVec.extractLsb'_eq_self

/-- A field inside the low twelve bits is read from them. -/
theorem extractLsb'_assemble (o : Opcode) (low : BitVec 12) {k n : Nat} (h : k + n ≤ 12) :
    (assemble o low).extractLsb' k n = low.extractLsb' k n :=
  BitVec.extractLsb'_append_eq_of_add_le h

/-- A bit below bit 12 is read from the low twelve bits. -/
theorem getLsbD_assemble (o : Opcode) (low : BitVec 12) {k : Nat} (h : k < 12) :
    (assemble o low).getLsbD k = low.getLsbD k := by
  rw [assemble, BitVec.getLsbD_append, if_pos h]

theorem fieldVector_assemble (o : Opcode) (v : BitVec 8) : fieldVector (assemble o (formatTrap v)) = v := by
  rw [fieldVector, extractLsb'_assemble o _ (by omega), formatTrap, BitVec.extractLsb'_append_eq_of_add_le (by omega)]
  exact BitVec.extractLsb'_eq_self

/-- The fields of F-OPR. -/
theorem fields_formatOpr (o : Opcode) (dr sr1 sr2 : RegNum) :
    fieldDr (assemble o (formatOpr dr sr1 sr2)) = dr ∧ fieldSr1 (assemble o (formatOpr dr sr1 sr2)) = sr1 ∧
      fieldSr2 (assemble o (formatOpr dr sr1 sr2)) = sr2 ∧
      fieldImmFlag (assemble o (formatOpr dr sr1 sr2)) = false := by
  refine ⟨?_, ?_, ?_, ?_⟩ <;>
    simp (disch := omega) only [fieldDr, fieldSr1, fieldSr2, fieldImmFlag, extractLsb'_assemble, getLsbD_assemble, formatOpr,
      BitVec.extractLsb'_append_eq_of_le, BitVec.extractLsb'_append_eq_of_add_le, BitVec.getLsbD_append]
  all_goals first | exact BitVec.extractLsb'_eq_self | rfl

/-- The fields of F-OPI. -/
theorem fields_formatOpi (o : Opcode) (dr sr1 : RegNum) (imm5 : BitVec 5) :
    fieldDr (assemble o (formatOpi dr sr1 imm5)) = dr ∧ fieldSr1 (assemble o (formatOpi dr sr1 imm5)) = sr1 ∧
      fieldImm5 (assemble o (formatOpi dr sr1 imm5)) = imm5 ∧
      fieldImmFlag (assemble o (formatOpi dr sr1 imm5)) = true := by
  refine ⟨?_, ?_, ?_, ?_⟩ <;>
    simp (disch := omega) only [fieldDr, fieldSr1, fieldImm5, fieldImmFlag, extractLsb'_assemble, getLsbD_assemble, formatOpi,
      BitVec.extractLsb'_append_eq_of_le, BitVec.extractLsb'_append_eq_of_add_le, BitVec.getLsbD_append]
  all_goals first | exact BitVec.extractLsb'_eq_self | rfl

/-- The fields of F-NOT. -/
theorem fields_formatNot (o : Opcode) (dr sr1 : RegNum) :
    fieldDr (assemble o (formatNot dr sr1)) = dr ∧ fieldSr1 (assemble o (formatNot dr sr1)) = sr1 := by
  refine ⟨?_, ?_⟩ <;>
    simp (disch := omega) only [fieldDr, fieldSr1, extractLsb'_assemble, formatNot,
      BitVec.extractLsb'_append_eq_of_le, BitVec.extractLsb'_append_eq_of_add_le]
  all_goals exact BitVec.extractLsb'_eq_self

/-- The fields of F-BASE6. -/
theorem fields_formatBase6 (o : Opcode) (r baseR : RegNum) (off6 : BitVec 6) :
    fieldDr (assemble o (formatBase6 r baseR off6)) = r ∧ fieldBaseR (assemble o (formatBase6 r baseR off6)) = baseR ∧
      fieldOff6 (assemble o (formatBase6 r baseR off6)) = off6 := by
  refine ⟨?_, ?_, ?_⟩ <;>
    simp (disch := omega) only [fieldDr, fieldBaseR, fieldOff6, extractLsb'_assemble, formatBase6,
      BitVec.extractLsb'_append_eq_of_le, BitVec.extractLsb'_append_eq_of_add_le]
  all_goals exact BitVec.extractLsb'_eq_self

/-- The fields of F-PC9 and F-BR. -/
theorem fields_formatPc9 (o : Opcode) (r : BitVec 3) (off9 : BitVec 9) :
    fieldDr (assemble o (formatPc9 r off9)) = r ∧ fieldMask (assemble o (formatPc9 r off9)) = r ∧
      fieldOff9 (assemble o (formatPc9 r off9)) = off9 := by
  refine ⟨?_, ?_, ?_⟩ <;>
    simp (disch := omega) only [fieldDr, fieldMask, fieldOff9, extractLsb'_assemble, formatPc9,
      BitVec.extractLsb'_append_eq_of_le, BitVec.extractLsb'_append_eq_of_add_le]
  all_goals exact BitVec.extractLsb'_eq_self

/-- The field of F-JMP. -/
theorem fields_formatJmp (o : Opcode) (baseR : RegNum) : fieldBaseR (assemble o (formatJmp baseR)) = baseR := by
  simp (disch := omega) only [fieldBaseR, extractLsb'_assemble, formatJmp, BitVec.extractLsb'_append_eq_of_le,
    BitVec.extractLsb'_append_eq_of_add_le]
  exact BitVec.extractLsb'_eq_self

/-- The fields of F-JSR. -/
theorem fields_formatJsr (o : Opcode) (off11 : BitVec 11) :
    fieldOff11 (assemble o (formatJsr off11)) = off11 ∧ fieldLong (assemble o (formatJsr off11)) = true := by
  refine ⟨?_, ?_⟩ <;>
    simp (disch := omega) only [fieldOff11, fieldLong, extractLsb'_assemble, getLsbD_assemble, formatJsr,
      BitVec.extractLsb'_append_eq_of_add_le, BitVec.getLsbD_append]
  all_goals first | exact BitVec.extractLsb'_eq_self | rfl

/-- The fields of F-JSRR. -/
theorem fields_formatJsrr (o : Opcode) (baseR : RegNum) :
    fieldBaseR (assemble o (formatJsrr baseR)) = baseR ∧ fieldLong (assemble o (formatJsrr baseR)) = false := by
  refine ⟨?_, ?_⟩ <;>
    simp (disch := omega) only [fieldBaseR, fieldLong, extractLsb'_assemble, getLsbD_assemble, formatJsrr,
      BitVec.extractLsb'_append_eq_of_le, BitVec.extractLsb'_append_eq_of_add_le, BitVec.getLsbD_append]
  all_goals first | exact BitVec.extractLsb'_eq_self | rfl

end Sys2Proof
end

