-- ==== Sys2Proof/Laws/State.lean ====
section
/-! SUPPORT. One lemma per field per update of State, so that no later proof unfolds a record update; then what a
register or a cell reads as after each update. -/

namespace Sys2Proof.Machine

/-! ### setReg -/

@[simp] theorem State.setReg_regs (s : State) (r : RegNum) (v : Word) : (s.setReg r v).regs = s.regs.set r.toNat v r.isLt := rfl
@[simp] theorem State.setReg_pc (s : State) (r : RegNum) (v : Word) : (s.setReg r v).pc = s.pc := rfl
@[simp] theorem State.setReg_cond (s : State) (r : RegNum) (v : Word) : (s.setReg r v).cond = s.cond := rfl
@[simp] theorem State.setReg_running (s : State) (r : RegNum) (v : Word) : (s.setReg r v).running = s.running := rfl
@[simp] theorem State.setReg_mem (s : State) (r : RegNum) (v : Word) : (s.setReg r v).mem = s.mem := rfl
@[simp] theorem State.setReg_service (s : State) (r : RegNum) (v : Word) : (s.setReg r v).service = s.service := rfl
@[simp] theorem State.setReg_inStream (s : State) (r : RegNum) (v : Word) : (s.setReg r v).inStream = s.inStream := rfl
@[simp] theorem State.setReg_outTrace (s : State) (r : RegNum) (v : Word) : (s.setReg r v).outTrace = s.outTrace := rfl
@[simp] theorem State.setReg_inPrompt (s : State) (r : RegNum) (v : Word) : (s.setReg r v).inPrompt = s.inPrompt := rfl

/-! ### setPc -/

@[simp] theorem State.setPc_regs (s : State) (a : Word) : (s.setPc a).regs = s.regs := rfl
@[simp] theorem State.setPc_pc (s : State) (a : Word) : (s.setPc a).pc = a := rfl
@[simp] theorem State.setPc_cond (s : State) (a : Word) : (s.setPc a).cond = s.cond := rfl
@[simp] theorem State.setPc_running (s : State) (a : Word) : (s.setPc a).running = s.running := rfl
@[simp] theorem State.setPc_mem (s : State) (a : Word) : (s.setPc a).mem = s.mem := rfl
@[simp] theorem State.setPc_service (s : State) (a : Word) : (s.setPc a).service = s.service := rfl
@[simp] theorem State.setPc_inStream (s : State) (a : Word) : (s.setPc a).inStream = s.inStream := rfl
@[simp] theorem State.setPc_outTrace (s : State) (a : Word) : (s.setPc a).outTrace = s.outTrace := rfl
@[simp] theorem State.setPc_inPrompt (s : State) (a : Word) : (s.setPc a).inPrompt = s.inPrompt := rfl

/-! ### setcc -/

@[simp] theorem State.setcc_regs (s : State) (v : Word) : (s.setcc v).regs = s.regs := rfl
@[simp] theorem State.setcc_pc (s : State) (v : Word) : (s.setcc v).pc = s.pc := rfl
@[simp] theorem State.setcc_cond (s : State) (v : Word) : (s.setcc v).cond = condOf v := rfl
@[simp] theorem State.setcc_running (s : State) (v : Word) : (s.setcc v).running = s.running := rfl
@[simp] theorem State.setcc_mem (s : State) (v : Word) : (s.setcc v).mem = s.mem := rfl
@[simp] theorem State.setcc_service (s : State) (v : Word) : (s.setcc v).service = s.service := rfl
@[simp] theorem State.setcc_inStream (s : State) (v : Word) : (s.setcc v).inStream = s.inStream := rfl
@[simp] theorem State.setcc_outTrace (s : State) (v : Word) : (s.setcc v).outTrace = s.outTrace := rfl
@[simp] theorem State.setcc_inPrompt (s : State) (v : Word) : (s.setcc v).inPrompt = s.inPrompt := rfl

/-! ### writeMem -/

@[simp] theorem State.writeMem_regs (s : State) (a v : Word) : (s.writeMem a v).regs = s.regs := rfl
@[simp] theorem State.writeMem_pc (s : State) (a v : Word) : (s.writeMem a v).pc = s.pc := rfl
@[simp] theorem State.writeMem_cond (s : State) (a v : Word) : (s.writeMem a v).cond = s.cond := rfl
@[simp] theorem State.writeMem_running (s : State) (a v : Word) : (s.writeMem a v).running = s.running := rfl
@[simp] theorem State.writeMem_mem (s : State) (a v : Word) : (s.writeMem a v).mem = s.mem.write a v := rfl
@[simp] theorem State.writeMem_service (s : State) (a v : Word) : (s.writeMem a v).service = s.service := rfl
@[simp] theorem State.writeMem_inStream (s : State) (a v : Word) : (s.writeMem a v).inStream = s.inStream := rfl
@[simp] theorem State.writeMem_outTrace (s : State) (a v : Word) : (s.writeMem a v).outTrace = s.outTrace := rfl
@[simp] theorem State.writeMem_inPrompt (s : State) (a v : Word) : (s.writeMem a v).inPrompt = s.inPrompt := rfl

/-! ### stop -/

@[simp] theorem State.stop_regs (s : State) : s.stop.regs = s.regs := rfl
@[simp] theorem State.stop_pc (s : State) : s.stop.pc = s.pc := rfl
@[simp] theorem State.stop_cond (s : State) : s.stop.cond = s.cond := rfl
@[simp] theorem State.stop_running (s : State) : s.stop.running = false := rfl
@[simp] theorem State.stop_mem (s : State) : s.stop.mem = s.mem := rfl
@[simp] theorem State.stop_service (s : State) : s.stop.service = s.service := rfl
@[simp] theorem State.stop_inStream (s : State) : s.stop.inStream = s.inStream := rfl
@[simp] theorem State.stop_outTrace (s : State) : s.stop.outTrace = s.outTrace := rfl
@[simp] theorem State.stop_inPrompt (s : State) : s.stop.inPrompt = s.inPrompt := rfl

/-! ### emit -/

@[simp] theorem State.emit_regs (s : State) (es : List OutEvent) : (s.emit es).regs = s.regs := rfl
@[simp] theorem State.emit_pc (s : State) (es : List OutEvent) : (s.emit es).pc = s.pc := rfl
@[simp] theorem State.emit_cond (s : State) (es : List OutEvent) : (s.emit es).cond = s.cond := rfl
@[simp] theorem State.emit_running (s : State) (es : List OutEvent) : (s.emit es).running = s.running := rfl
@[simp] theorem State.emit_mem (s : State) (es : List OutEvent) : (s.emit es).mem = s.mem := rfl
@[simp] theorem State.emit_service (s : State) (es : List OutEvent) : (s.emit es).service = s.service := rfl
@[simp] theorem State.emit_inStream (s : State) (es : List OutEvent) : (s.emit es).inStream = s.inStream := rfl
@[simp] theorem State.emit_outTrace (s : State) (es : List OutEvent) : (s.emit es).outTrace = s.outTrace ++ es := rfl
@[simp] theorem State.emit_inPrompt (s : State) (es : List OutEvent) : (s.emit es).inPrompt = s.inPrompt := rfl

/-! ### setService -/

@[simp] theorem State.setService_regs (s : State) (p : Option Pending) : (s.setService p).regs = s.regs := rfl
@[simp] theorem State.setService_pc (s : State) (p : Option Pending) : (s.setService p).pc = s.pc := rfl
@[simp] theorem State.setService_cond (s : State) (p : Option Pending) : (s.setService p).cond = s.cond := rfl
@[simp] theorem State.setService_running (s : State) (p : Option Pending) : (s.setService p).running = s.running := rfl
@[simp] theorem State.setService_mem (s : State) (p : Option Pending) : (s.setService p).mem = s.mem := rfl
@[simp] theorem State.setService_service (s : State) (p : Option Pending) : (s.setService p).service = p := rfl
@[simp] theorem State.setService_inStream (s : State) (p : Option Pending) : (s.setService p).inStream = s.inStream := rfl
@[simp] theorem State.setService_outTrace (s : State) (p : Option Pending) : (s.setService p).outTrace = s.outTrace := rfl
@[simp] theorem State.setService_inPrompt (s : State) (p : Option Pending) : (s.setService p).inPrompt = s.inPrompt := rfl

/-! ### setInStream -/

@[simp] theorem State.setInStream_regs (s : State) (cs : List Byte) : (s.setInStream cs).regs = s.regs := rfl
@[simp] theorem State.setInStream_pc (s : State) (cs : List Byte) : (s.setInStream cs).pc = s.pc := rfl
@[simp] theorem State.setInStream_cond (s : State) (cs : List Byte) : (s.setInStream cs).cond = s.cond := rfl
@[simp] theorem State.setInStream_running (s : State) (cs : List Byte) : (s.setInStream cs).running = s.running := rfl
@[simp] theorem State.setInStream_mem (s : State) (cs : List Byte) : (s.setInStream cs).mem = s.mem := rfl
@[simp] theorem State.setInStream_service (s : State) (cs : List Byte) : (s.setInStream cs).service = s.service := rfl
@[simp] theorem State.setInStream_inStream (s : State) (cs : List Byte) : (s.setInStream cs).inStream = cs := rfl
@[simp] theorem State.setInStream_outTrace (s : State) (cs : List Byte) : (s.setInStream cs).outTrace = s.outTrace := rfl
@[simp] theorem State.setInStream_inPrompt (s : State) (cs : List Byte) : (s.setInStream cs).inPrompt = s.inPrompt := rfl

/-! ### Registers and cells after an update -/

theorem State.reg_setReg (s : State) (r q : RegNum) (v : Word) :
    (s.setReg r v).reg q = if q = r then v else s.reg q := by
  simp only [State.reg, State.setReg, Vector.getElem_set]
  by_cases h : r.toNat = q.toNat
  · simp [h, (BitVec.eq_of_toNat_eq h).symm]
  · have : q ≠ r := fun e => h (by rw [e])
    simp [h, this]

@[simp] theorem State.reg_setReg_self (s : State) (r : RegNum) (v : Word) : (s.setReg r v).reg r = v := by
  simp [State.reg_setReg]

theorem State.reg_setReg_of_ne (s : State) {r q : RegNum} (v : Word) (h : q ≠ r) : (s.setReg r v).reg q = s.reg q := by
  simp [State.reg_setReg, h]

@[simp] theorem State.reg_setPc (s : State) (a : Word) (q : RegNum) : (s.setPc a).reg q = s.reg q := rfl
@[simp] theorem State.reg_setcc (s : State) (v : Word) (q : RegNum) : (s.setcc v).reg q = s.reg q := rfl
@[simp] theorem State.reg_writeMem (s : State) (a v : Word) (q : RegNum) : (s.writeMem a v).reg q = s.reg q := rfl
@[simp] theorem State.reg_stop (s : State) (q : RegNum) : s.stop.reg q = s.reg q := rfl
@[simp] theorem State.reg_emit (s : State) (es : List OutEvent) (q : RegNum) : (s.emit es).reg q = s.reg q := rfl
@[simp] theorem State.reg_setService (s : State) (p : Option Pending) (q : RegNum) : (s.setService p).reg q = s.reg q := rfl
@[simp] theorem State.reg_setInStream (s : State) (cs : List Byte) (q : RegNum) : (s.setInStream cs).reg q = s.reg q := rfl
@[simp] theorem State.readMem_setReg (s : State) (r : RegNum) (v : Word) (x : Word) : (s.setReg r v).readMem x = s.readMem x := rfl
@[simp] theorem State.readMem_setPc (s : State) (a : Word) (x : Word) : (s.setPc a).readMem x = s.readMem x := rfl
@[simp] theorem State.readMem_setcc (s : State) (v : Word) (x : Word) : (s.setcc v).readMem x = s.readMem x := rfl
@[simp] theorem State.readMem_stop (s : State) (x : Word) : s.stop.readMem x = s.readMem x := rfl
@[simp] theorem State.readMem_emit (s : State) (es : List OutEvent) (x : Word) : (s.emit es).readMem x = s.readMem x := rfl
@[simp] theorem State.readMem_setService (s : State) (p : Option Pending) (x : Word) : (s.setService p).readMem x = s.readMem x := rfl
@[simp] theorem State.readMem_setInStream (s : State) (cs : List Byte) (x : Word) : (s.setInStream cs).readMem x = s.readMem x := rfl

/-! ### The composed updates -/

@[simp] theorem State.writeResult_regs (s : State) (dr : RegNum) (v : Word) : (s.writeResult dr v).regs = s.regs.set dr.toNat v dr.isLt := rfl
@[simp] theorem State.writeResult_pc (s : State) (dr : RegNum) (v : Word) : (s.writeResult dr v).pc = s.pc := rfl
@[simp] theorem State.writeResult_cond (s : State) (dr : RegNum) (v : Word) : (s.writeResult dr v).cond = condOf v := rfl
@[simp] theorem State.writeResult_running (s : State) (dr : RegNum) (v : Word) : (s.writeResult dr v).running = s.running := rfl
@[simp] theorem State.writeResult_mem (s : State) (dr : RegNum) (v : Word) : (s.writeResult dr v).mem = s.mem := rfl
@[simp] theorem State.writeResult_service (s : State) (dr : RegNum) (v : Word) : (s.writeResult dr v).service = s.service := rfl
@[simp] theorem State.writeResult_inStream (s : State) (dr : RegNum) (v : Word) : (s.writeResult dr v).inStream = s.inStream := rfl
@[simp] theorem State.writeResult_outTrace (s : State) (dr : RegNum) (v : Word) : (s.writeResult dr v).outTrace = s.outTrace := rfl
@[simp] theorem State.writeResult_inPrompt (s : State) (dr : RegNum) (v : Word) : (s.writeResult dr v).inPrompt = s.inPrompt := rfl

theorem State.reg_writeResult (s : State) (dr q : RegNum) (v : Word) :
    (s.writeResult dr v).reg q = if q = dr then v else s.reg q := by
  simp [State.writeResult, State.reg_setReg]

@[simp] theorem State.readMem_writeResult (s : State) (dr : RegNum) (v x : Word) :
    (s.writeResult dr v).readMem x = s.readMem x := rfl

@[simp] theorem State.link_regs (s : State) : s.link.regs = s.regs.set Config.linkReg.toNat s.pc Config.linkReg.isLt := rfl
@[simp] theorem State.link_pc (s : State) : s.link.pc = s.pc := rfl
@[simp] theorem State.link_cond (s : State) : s.link.cond = s.cond := rfl
@[simp] theorem State.link_running (s : State) : s.link.running = s.running := rfl
@[simp] theorem State.link_mem (s : State) : s.link.mem = s.mem := rfl
@[simp] theorem State.link_service (s : State) : s.link.service = s.service := rfl
@[simp] theorem State.link_inStream (s : State) : s.link.inStream = s.inStream := rfl
@[simp] theorem State.link_outTrace (s : State) : s.link.outTrace = s.outTrace := rfl
@[simp] theorem State.link_inPrompt (s : State) : s.link.inPrompt = s.inPrompt := rfl

theorem State.reg_link (s : State) (q : RegNum) : s.link.reg q = if q = Config.linkReg then s.pc else s.reg q :=
  State.reg_setReg s Config.linkReg q s.pc

@[simp] theorem State.readMem_link (s : State) (x : Word) : s.link.readMem x = s.readMem x := rfl

@[simp] theorem State.advancePc_regs (s : State) : s.advancePc.regs = s.regs := rfl
@[simp] theorem State.advancePc_pc (s : State) : s.advancePc.pc = s.pc + 1#16 := rfl
@[simp] theorem State.advancePc_cond (s : State) : s.advancePc.cond = s.cond := rfl
@[simp] theorem State.advancePc_running (s : State) : s.advancePc.running = s.running := rfl
@[simp] theorem State.advancePc_mem (s : State) : s.advancePc.mem = s.mem := rfl
@[simp] theorem State.advancePc_service (s : State) : s.advancePc.service = s.service := rfl
@[simp] theorem State.advancePc_inStream (s : State) : s.advancePc.inStream = s.inStream := rfl
@[simp] theorem State.advancePc_outTrace (s : State) : s.advancePc.outTrace = s.outTrace := rfl
@[simp] theorem State.advancePc_inPrompt (s : State) : s.advancePc.inPrompt = s.inPrompt := rfl

@[simp] theorem State.reg_advancePc (s : State) (q : RegNum) : s.advancePc.reg q = s.reg q := rfl

@[simp] theorem State.readMem_advancePc (s : State) (x : Word) : s.advancePc.readMem x = s.readMem x := rfl

@[simp] theorem State.deliver_regs (s : State) (cs : List Byte) : (s.deliver cs).regs = s.regs := rfl
@[simp] theorem State.deliver_pc (s : State) (cs : List Byte) : (s.deliver cs).pc = s.pc := rfl
@[simp] theorem State.deliver_cond (s : State) (cs : List Byte) : (s.deliver cs).cond = s.cond := rfl
@[simp] theorem State.deliver_running (s : State) (cs : List Byte) : (s.deliver cs).running = s.running := rfl
@[simp] theorem State.deliver_mem (s : State) (cs : List Byte) : (s.deliver cs).mem = s.mem := rfl
@[simp] theorem State.deliver_service (s : State) (cs : List Byte) : (s.deliver cs).service = s.service := rfl
@[simp] theorem State.deliver_inStream (s : State) (cs : List Byte) : (s.deliver cs).inStream = s.inStream ++ cs := rfl
@[simp] theorem State.deliver_outTrace (s : State) (cs : List Byte) : (s.deliver cs).outTrace = s.outTrace := rfl
@[simp] theorem State.deliver_inPrompt (s : State) (cs : List Byte) : (s.deliver cs).inPrompt = s.inPrompt := rfl

@[simp] theorem State.reg_deliver (s : State) (cs : List Byte) (q : RegNum) : (s.deliver cs).reg q = s.reg q := rfl

@[simp] theorem State.readMem_deliver (s : State) (cs : List Byte) (x : Word) :
    (s.deliver cs).readMem x = s.readMem x := rfl

end Sys2Proof.Machine
end

