-- ==== Sys2Proof/Laws/Flags.lean ====
section
/-! SUPPORT. The condition flags (spec/40_fetch_execute_loop.md R74, R75). -/

namespace Sys2Proof.Machine

@[simp] theorem oneHot_bits (f : Flag) : oneHot f.bits = true := by cases f <;> decide

@[simp] theorem oneHot_condOf (v : Word) : oneHot (condOf v) = true := oneHot_bits _

/-- One-hot means: the value of one of the three flags. -/
theorem oneHot_iff (c : BitVec 3) : oneHot c = true ↔ ∃ f : Flag, c = f.bits := by
  constructor
  · intro h
    simp only [oneHot, Bool.or_eq_true, beq_iff_eq] at h
    rcases h with (h | h) | h
    exacts [⟨_, h⟩, ⟨_, h⟩, ⟨_, h⟩]
  · rintro ⟨f, rfl⟩; exact oneHot_bits f

/-- R74, in full. -/
theorem condOf_eq (v : Word) : condOf v =
    if v = 0x0000#16 then Flag.bits .z else if v.getLsbD 15 then Flag.bits .n else Flag.bits .p := by
  unfold condOf flagOf
  split
  · rfl
  · split <;> rfl

end Sys2Proof.Machine
end

