-- ==== Sys2Proof/Laws/Memory.lean ====
section
/-! SUPPORT. What the memory operations do (spec/20_memory.md R31, R32): read after write, and that a write keeps the
canonical form. -/

namespace Sys2Proof.Machine

theorem Memory.mem_erase (c : Cell) (m : Memory) (k : Nat) : c ∈ Memory.erase m k ↔ c ∈ m ∧ c.1 ≠ k := by
  simp [Memory.erase]

theorem Memory.erase_ne (m : Memory) (k : Nat) : ∀ c ∈ Memory.erase m k, c.1 ≠ k :=
  fun c hc => ((Memory.mem_erase c m k).1 hc).2

theorem Memory.get_erase (m : Memory) (k a : Nat) :
    (Memory.erase m k).get a = if a = k then unlistedWord else m.get a := by
  induction m with
  | nil => simp [Memory.erase, Memory.get]
  | cons c rest ih =>
    simp only [Memory.erase] at ih
    by_cases hc : c.1 = k
    · rw [Memory.erase, List.filter_cons_of_neg (by simp [hc]), ih]
      by_cases ha : a = k
      · simp [ha]
      · have : c.1 ≠ a := fun e => ha (e.symm.trans hc)
        simp [ha, Memory.get, this]
    · rw [Memory.erase, List.filter_cons_of_pos (by simp [hc])]
      by_cases ha : c.1 = a
      · have : a ≠ k := fun e => hc (ha.trans e)
        simp [Memory.get, ha, this]
      · simp [Memory.get, ha, ih]

theorem Memory.get_insert (c : Cell) (m : Memory) (h : ∀ d ∈ m, d.1 ≠ c.1) (a : Nat) :
    (Memory.insert c m).get a = if a = c.1 then c.2 else m.get a := by
  induction m with
  | nil => simp [Memory.insert, Memory.get, eq_comm]
  | cons d rest ih =>
    have hd : d.1 ≠ c.1 := h d (by simp)
    have ih := ih (fun e he => h e (by simp [he]))
    by_cases hlt : c.1 < d.1
    · simp [Memory.insert, hlt, Memory.get, eq_comm]
    · rw [Memory.insert, if_neg hlt]
      by_cases hda : d.1 = a
      · have : a ≠ c.1 := fun e => hd (hda.trans e)
        simp [Memory.get, hda, this]
      · simp [Memory.get, hda, ih]

/-- R31 and R32 for one write: the cell written holds the word, every other cell is unchanged. -/
theorem Memory.read_write (m : Memory) (a v b : Word) : (m.write a v).read b = if b = a then v else m.read b := by
  have keys : b.toNat = a.toNat ↔ b = a := ⟨BitVec.eq_of_toNat_eq, fun e => by rw [e]⟩
  by_cases hv : v = unlistedWord
  · simp [Memory.write, Memory.read, hv, Memory.get_erase, keys]
  · rw [Memory.write, if_neg hv, Memory.read, Memory.get_insert _ _ (Memory.erase_ne m a.toNat)]
    by_cases hb : b = a
    · simp [hb]
    · have : b.toNat ≠ a.toNat := fun e => hb (keys.1 e)
      simp [hb, this, Memory.get_erase, Memory.read]

theorem Memory.mem_insert (c d : Cell) (m : Memory) : d ∈ Memory.insert c m ↔ d = c ∨ d ∈ m := by
  induction m with
  | nil => simp [Memory.insert]
  | cons e rest ih =>
    by_cases h : c.1 < e.1
    · simp [Memory.insert, h]
    · simp only [Memory.insert, h, if_false, List.mem_cons, ih]; tauto

theorem Memory.pairwise_insert (c : Cell) (m : Memory) (hm : m.Pairwise (fun x y => x.1 < y.1))
    (h : ∀ d ∈ m, d.1 ≠ c.1) : (Memory.insert c m).Pairwise (fun x y => x.1 < y.1) := by
  induction m with
  | nil => simp [Memory.insert]
  | cons e rest ih =>
    obtain ⟨he, hrest⟩ := List.pairwise_cons.1 hm
    by_cases hlt : c.1 < e.1
    · simp only [Memory.insert, hlt, if_true]
      refine List.pairwise_cons.2 ⟨fun d hd => ?_, hm⟩
      rcases List.mem_cons.1 hd with rfl | hd
      · exact hlt
      · exact hlt.trans (he d hd)
    · simp only [Memory.insert, hlt, if_false]
      refine List.pairwise_cons.2 ⟨fun d hd => ?_, ih hrest (fun d hd => h d (by simp [hd]))⟩
      rcases (Memory.mem_insert c d rest).1 hd with rfl | hd
      · have := h e (by simp); omega
      · exact he d hd

/-- A write keeps the canonical form. -/
theorem Memory.wf_write (m : Memory) (a v : Word) (h : m.wf) : (m.write a v).wf := by
  obtain ⟨sorted, cells⟩ := h
  have sortedE : (Memory.erase m a.toNat).Pairwise (fun c d => c.1 < d.1) := sorted.filter _
  by_cases hv : v = unlistedWord
  · rw [Memory.write, if_pos hv]
    exact ⟨sortedE, fun c hc => cells c ((Memory.mem_erase c m _).1 hc).1⟩
  · rw [Memory.write, if_neg hv]
    refine ⟨Memory.pairwise_insert _ _ sortedE (Memory.erase_ne m a.toNat), fun c hc => ?_⟩
    rcases (Memory.mem_insert _ c _).1 hc with rfl | hc
    · exact ⟨a.isLt, hv⟩
    · exact cells c ((Memory.mem_erase c m _).1 hc).1

theorem Memory.wf_nil : Memory.wf [] := by simp [Memory.wf]

/-- Loading an image keeps the canonical form. -/
theorem loadImage_wf (ws : List Word) (m : Memory) (a : Word) (h : m.wf) : (loadImage m a ws).wf := by
  induction ws generalizing m a with
  | nil => exact h
  | cons w ws ih => exact ih _ _ (Memory.wf_write m a w h)

/-- Where a loaded image stands (R172): word `k` of at most 65536 words is at `a + k`, every other cell is unchanged. -/
theorem loadImage_read (ws : List Word) (m : Memory) (a b : Word) (h : ws.length ≤ 65536) :
    (loadImage m a ws).read b = if h : (b - a).toNat < ws.length then ws[(b - a).toNat] else m.read b := by
  induction ws generalizing m a with
  | nil => simp [loadImage]
  | cons w ws ih =>
    simp only [List.length_cons] at h
    have next : b - (a + 1#16) = (b - a) - 1#16 := by bv_omega
    rw [loadImage, ih _ _ (by omega), next]
    by_cases hb : b = a
    · subst hb
      have last : (b - b - 1#16).toNat = 65535 := by rw [BitVec.sub_self]; rfl
      rw [dif_neg (by omega)]
      simp [Memory.read_write]
    · have pos : (b - a).toNat ≠ 0 := fun e => hb (by bv_omega)
      have pred : (b - a - 1#16).toNat = (b - a).toNat - 1 := by
        generalize b - a = d at pos; bv_omega
      by_cases hl : (b - a).toNat < ws.length + 1
      · rw [dif_pos (by omega), dif_pos (by simpa using hl)]
        obtain ⟨k, hk⟩ : ∃ k, (b - a).toNat = k + 1 := ⟨(b - a).toNat - 1, by omega⟩
        simp [pred, hk]
      · rw [dif_neg (by omega), dif_neg (by simpa using hl), Memory.read_write, if_neg hb]

theorem State.readMem_writeMem (s : State) (a v b : Word) :
    (s.writeMem a v).readMem b = if b = a then v else s.readMem b := Memory.read_write s.mem a v b

@[simp] theorem State.readMem_writeMem_self (s : State) (a v : Word) : (s.writeMem a v).readMem a = v := by
  simp [State.readMem_writeMem]

end Sys2Proof.Machine
end

