-- ==== Sys2Proof/Laws/Effects.lean ====
section
/-! SUPPORT. The shared effects of the instructions, one lemma each: a result written, a cell written, a control transfer. -/

namespace Sys2Proof.Machine

/-- `R[DR] <- v; setcc(v)` and nothing else. -/
theorem writesResult_writeResult (s : State) (dr : RegNum) (v : Word) :
    WritesResult (.next (s.writeResult dr v)) s dr v :=
  ⟨_, rfl, by simp [State.reg_writeResult], fun q hq => by simp [State.reg_writeResult, hq], condOf_eq v, rfl,
    fun _ => rfl, ⟨rfl, rfl⟩, rfl, rfl, rfl⟩

/-- `MemWrite(a, 1, v)` and nothing else. -/
theorem writesCell_writeMem (s : State) (a v : Word) : WritesCell (.next (s.writeMem a v)) s a v :=
  ⟨_, rfl, by simp, fun b hb => by simp [State.readMem_writeMem, hb], fun _ => rfl, rfl, rfl, ⟨rfl, rfl⟩, rfl, rfl, rfl⟩

/-- `pc <- target` and nothing else. -/
theorem transfers_setPc (s : State) (target : Word) : Transfers (.next (s.setPc target)) s target none :=
  ⟨_, rfl, rfl, fun q => by simp, rfl, fun _ => rfl, ⟨rfl, rfl⟩, rfl, rfl, rfl⟩

/-- PC kept and nothing else changed. -/
theorem transfers_stay (s : State) : Transfers (.next s) s s.pc none :=
  ⟨_, rfl, rfl, fun q => by simp, rfl, fun _ => rfl, ⟨rfl, rfl⟩, rfl, rfl, rfl⟩

/-- `R[7] <- PC; pc <- target` and nothing else. -/
theorem transfers_link (s : State) (target : Word) :
    Transfers (.next (s.link.setPc target)) s target (some s.pc) :=
  ⟨_, rfl, rfl, fun q => by simp [State.reg_link], rfl, fun _ => rfl, ⟨rfl, rfl⟩, rfl, rfl, rfl⟩

end Sys2Proof.Machine
end

