-- ==== Sys2Proof/Laws/Trap.lean ====
section
/-! SUPPORT. The trap services (spec/45_trap.md): what the string walk answers, what GETC and IN do with and without a
character, and what no service changes. -/

namespace Sys2Proof.Machine

/-! ### The string walk -/

theorem walkString_step (cell : Word → List OutEvent) (m : Memory) (fuel : Nat) (a : Word)
    (h : m.read a ≠ 0x0000#16) :
    walkString cell m (fuel + 1) a =
      (cell (m.read a) ++ (walkString cell m fuel (a + 1#16)).1, (walkString cell m fuel (a + 1#16)).2) := by
  simp [walkString, h]

theorem walkString_end (cell : Word → List OutEvent) (m : Memory) (fuel : Nat) (a : Word)
    (h : m.read a = 0x0000#16) : walkString cell m (fuel + 1) a = ([], none) := by
  simp [walkString, h]

/-- With no terminator in reach the walk writes every cell and says where it would go on. -/
theorem walkString_open (cell : Word → List OutEvent) (m : Memory) (n : Nat) (a : Word)
    (h : ∀ j < n, m.read (a + BitVec.ofNat 16 j) ≠ 0x0000#16) :
    walkString cell m n a =
      ((List.range n).flatMap (fun j => cell (m.read (a + BitVec.ofNat 16 j))), some (a + BitVec.ofNat 16 n)) := by
  induction n generalizing a with
  | zero => simp [walkString]
  | succ n ih =>
    have shift : ∀ j : Nat, a + 1#16 + BitVec.ofNat 16 j = a + BitVec.ofNat 16 (j + 1) := by
      intro j; rw [BitVec.add_assoc, Nat.add_comm j 1, BitVec.ofNat_add]
    have h0 : m.read a ≠ 0x0000#16 := by simpa using h 0 (by omega)
    rw [walkString_step cell m n a h0, ih (a + 1#16) (fun j hj => by rw [shift]; exact h (j + 1) (by omega))]
    simp [List.range_succ_eq_map, List.flatMap_map, shift]

/-- With a terminator in reach the walk writes every cell before it and ends. -/
theorem walkString_closed (cell : Word → List OutEvent) (m : Memory) {n fuel : Nat} (a : Word) (hn : n < fuel)
    (h : ∀ j < n, m.read (a + BitVec.ofNat 16 j) ≠ 0x0000#16)
    (h0 : m.read (a + BitVec.ofNat 16 n) = 0x0000#16) :
    walkString cell m fuel a =
      ((List.range n).flatMap (fun j => cell (m.read (a + BitVec.ofNat 16 j))), none) := by
  induction n generalizing fuel a with
  | zero =>
    obtain ⟨k, rfl⟩ : ∃ k, fuel = k + 1 := ⟨fuel - 1, by omega⟩
    simpa using walkString_end cell m k a (by simpa using h0)
  | succ n ih =>
    obtain ⟨k, rfl⟩ : ∃ k, fuel = k + 1 := ⟨fuel - 1, by omega⟩
    have shift : ∀ j : Nat, a + 1#16 + BitVec.ofNat 16 j = a + BitVec.ofNat 16 (j + 1) := by
      intro j; rw [BitVec.add_assoc, Nat.add_comm j 1, BitVec.ofNat_add]
    have here : m.read a ≠ 0x0000#16 := by simpa using h 0 (by omega)
    rw [walkString_step cell m k a here, ih (a + 1#16) (by omega)
      (fun j hj => by rw [shift]; exact h (j + 1) (by omega)) (by rw [shift]; exact h0)]
    simp [List.range_succ_eq_map, List.flatMap_map, shift]

/-! ### The trap table -/

/-- The table covers the vectors 0x20..0x25 and no others (R59). -/
theorem serviceOfVector_isSome (v : BitVec 8) : (serviceOfVector v).isSome = vectorInTable v := by
  revert v; decide

@[simp] theorem serviceOfVector_vectorOfService (t : TrapService) : serviceOfVector (vectorOfService t) = some t := by
  cases t <;> decide

/-! ### GETC and IN -/

theorem serviceGetc_of_char {s : State} {c : Byte} {cs : List Byte} (h : s.inStream = c :: cs) :
    serviceGetc s = ((s.setInStream cs).setService none).setReg Config.ioReg (zext8 c) := by
  simp [serviceGetc, h]

theorem serviceGetc_of_empty {s : State} (h : s.inStream = []) : serviceGetc s = s.setService (some .getc) := by
  simp [serviceGetc, h]

theorem awaitIn_of_char {s : State} {c : Byte} {cs : List Byte} (h : s.inStream = c :: cs) :
    awaitIn s = (((s.setInStream cs).setService none).emit [.char c]).setReg Config.ioReg (zext8 c) := by
  simp [awaitIn, h]

theorem awaitIn_of_empty {s : State} (h : s.inStream = []) : awaitIn s = s.setService (some .in_) := by
  simp [awaitIn, h]

/-- GETC either consumes the first character or waits, changing nothing else. -/
theorem serviceGetc_cases (s : State) :
    (∃ c cs, s.inStream = c :: cs ∧
      serviceGetc s = ((s.setInStream cs).setService none).setReg Config.ioReg (zext8 c)) ∨
    (s.inStream = [] ∧ serviceGetc s = s.setService (some .getc)) := by
  cases h : s.inStream with
  | nil => exact .inr ⟨rfl, serviceGetc_of_empty h⟩
  | cons c cs => exact .inl ⟨c, cs, rfl, serviceGetc_of_char h⟩

/-- IN after its prompt either consumes and echoes the first character or waits, changing nothing else. -/
theorem awaitIn_cases (s : State) :
    (∃ c cs, s.inStream = c :: cs ∧
      awaitIn s = (((s.setInStream cs).setService none).emit [.char c]).setReg Config.ioReg (zext8 c)) ∨
    (s.inStream = [] ∧ awaitIn s = s.setService (some .in_)) := by
  cases h : s.inStream with
  | nil => exact .inr ⟨rfl, awaitIn_of_empty h⟩
  | cons c cs => exact .inl ⟨c, cs, rfl, awaitIn_of_char h⟩

/-! ### PUTS and PUTSP -/

/-- PUTS appends events and ends or stays in progress, changing nothing else. -/
theorem putsFrom_cases (a : Word) (s : State) :
    ∃ es p, putsFrom a s = (s.emit es).setService p := ⟨_, _, rfl⟩

/-- PUTSP appends events and ends or stays in progress, changing nothing else. -/
theorem putspFrom_cases (a : Word) (s : State) :
    ∃ es p, putspFrom a s = (s.emit es).setService p := ⟨_, _, rfl⟩

/-! ### What no service changes -/

/-- A service changes R0, `running`, the two environment sequences and `service` at most. -/
theorem runService_frame (t : TrapService) (s : State) :
    (runService t s).pc = s.pc ∧ (runService t s).cond = s.cond ∧ (runService t s).mem = s.mem ∧
      (runService t s).inPrompt = s.inPrompt ∧
      ∀ q, q ≠ Config.ioReg → (runService t s).reg q = s.reg q := by
  cases t with
  | getc =>
    rcases serviceGetc_cases s with ⟨c, cs, _, h⟩ | ⟨_, h⟩
    · simp +contextual [runService, h, State.reg_setReg]
    · simp [runService, h]
  | out => simp [runService, serviceOut]
  | puts => obtain ⟨es, p, h⟩ := putsFrom_cases (s.reg Config.ioReg) s; simp [runService, servicePuts, h]
  | in_ =>
    rcases awaitIn_cases (s.emit (s.inPrompt.map .char)) with ⟨c, cs, _, h⟩ | ⟨_, h⟩
    · simp +contextual [runService, serviceIn, h, State.reg_setReg]
    · simp [runService, serviceIn, h]
  | putsp => obtain ⟨es, p, h⟩ := putspFrom_cases (s.reg Config.ioReg) s; simp [runService, servicePutsp, h]
  | halt => simp [runService, serviceHalt]

/-- A service that goes on changes R0, the two environment sequences and `service` at most. -/
theorem resumeService_frame (p : Pending) (s : State) :
    (resumeService p s).pc = s.pc ∧ (resumeService p s).cond = s.cond ∧ (resumeService p s).mem = s.mem ∧
      (resumeService p s).running = s.running ∧ (resumeService p s).inPrompt = s.inPrompt ∧
      ∀ q, q ≠ Config.ioReg → (resumeService p s).reg q = s.reg q := by
  cases p with
  | getc =>
    rcases serviceGetc_cases s with ⟨c, cs, _, h⟩ | ⟨_, h⟩
    · simp +contextual [resumeService, h, State.reg_setReg]
    · simp [resumeService, h]
  | in_ =>
    rcases awaitIn_cases s with ⟨c, cs, _, h⟩ | ⟨_, h⟩
    · simp +contextual [resumeService, h, State.reg_setReg]
    · simp [resumeService, h]
  | puts a => obtain ⟨es, p, h⟩ := putsFrom_cases a s; simp [resumeService, h]
  | putsp a => obtain ⟨es, p, h⟩ := putspFrom_cases a s; simp [resumeService, h]

end Sys2Proof.Machine
end

