-- ==== Sys2Proof/Laws/Step.lean ====
section
/-! SUPPORT. The three things a step does, one lemma each (spec/40_fetch_execute_loop.md R70, R71). -/

namespace Sys2Proof.Machine

theorem step_of_halted {s : State} (h : s.running = false) : step s = .next s := by simp [step, h]

theorem step_of_ready {s : State} (h : s.ready) : step s = exec (decode s.fetchWord) s.advancePc := by
  simp [step, h.1, h.2]

theorem step_of_service {s : State} {p : Pending} (hr : s.running = true) (hs : s.service = some p) :
    step s = .next (resumeService p s) := by simp [step, hr, hs]

/-- If a step answers next, the machine was halted and is unchanged, a service went on, or an instruction ran. -/
theorem step_cases {s t : State} (h : step s = .next t) :
    (s.running = false ∧ t = s) ∨
    (∃ p, s.running = true ∧ s.service = some p ∧ t = resumeService p s) ∨
    (s.ready ∧ exec (decode s.fetchWord) s.advancePc = .next t) := by
  cases hr : s.running with
  | false =>
    rw [step_of_halted hr] at h
    exact .inl ⟨rfl, (Host.Outcome.next.inj h).symm⟩
  | true =>
    cases hs : s.service with
    | none => exact .inr (.inr ⟨⟨hr, hs⟩, by rw [← step_of_ready ⟨hr, hs⟩, h]⟩)
    | some p =>
      rw [step_of_service hr hs] at h
      exact .inr (.inl ⟨p, rfl, rfl, (Host.Outcome.next.inj h).symm⟩)

/-! ### Runs of the host's interface -/

@[simp] theorem run_zero (s : State) : core.run 0 s = .next s := rfl

theorem run_succ (M : Host.Core) {s t : M.State} (n : Nat) (h : M.step s = .next t) : M.run (n + 1) s = M.run n t := by
  simp [Host.Core.run, h]

theorem run_succ_of_next {s t : State} (n : Nat) (h : step s = .next t) : core.run (n + 1) s = core.run n t :=
  run_succ core n h

/-- A state that a step leaves as it is stays so for any number of steps. -/
theorem run_of_fixed {s : State} (h : step s = .next s) (n : Nat) : core.run n s = .next s := by
  induction n with
  | zero => rfl
  | succ n ih => rw [run_succ_of_next n h, ih]

end Sys2Proof.Machine
end

