-- ==== Sys2Proof/Tests/Slice0.lean ====
section
/-! SUPPORT. Tests. Expected values are those of spec/95_test_vectors.md (the vector's id stands before a test) or are worked
out from the rule that is named. The last part shows, for every obligation with hypotheses, states and operands that meet them. -/

namespace Sys2Proof.Tests

open Sys2Proof.Machine

/-! ### Well-formedness: the one check, a vector of the trap table in the generic TRAP term (R59) -/

theorem test_wellFormed_refuses_trap20 : (Instr.trap 0x20).wellFormed = false := by decide

theorem test_wellFormed_refuses_trap25 : (Instr.trap 0x25).wellFormed = false := by decide

theorem test_wellFormed_accepts_outside :
    (Instr.trap 0x1F).wellFormed = true ∧ (Instr.trap 0x26).wellFormed = true ∧ (Instr.trap 0x00).wellFormed = true ∧
      (Instr.trap 0xFF).wellFormed = true := by decide

/-! ### Decoding: one word per constructor, written out field by field from R52 to R54 -/

theorem test_decode_addReg : decode (0b0001#4 ++ 0b101#3 ++ 0b011#3 ++ 0b0#1 ++ 0b00#2 ++ 0b110#3) = .addReg 5 3 6 := by
  decide

theorem test_decode_addImm : decode (0b0001#4 ++ 0b101#3 ++ 0b011#3 ++ 0b1#1 ++ 0b10011#5) = .addImm 5 3 0x13 := by decide

theorem test_decode_andReg : decode (0b0101#4 ++ 0b001#3 ++ 0b100#3 ++ 0b0#1 ++ 0b00#2 ++ 0b111#3) = .andReg 1 4 7 := by
  decide

theorem test_decode_andImm : decode (0b0101#4 ++ 0b001#3 ++ 0b100#3 ++ 0b1#1 ++ 0b01101#5) = .andImm 1 4 0x0D := by decide

theorem test_decode_not : decode (0b1001#4 ++ 0b110#3 ++ 0b001#3 ++ 0b111111#6) = .not 6 1 := by decide

theorem test_decode_ld : decode (0b0010#4 ++ 0b011#3 ++ 0b110010110#9) = .ld 3 0x196 := by decide

theorem test_decode_ldi : decode (0b1010#4 ++ 0b011#3 ++ 0b010010110#9) = .ldi 3 0x096 := by decide

theorem test_decode_ldr : decode (0b0110#4 ++ 0b011#3 ++ 0b110#3 ++ 0b101001#6) = .ldr 3 6 0x29 := by decide

theorem test_decode_lea : decode (0b1110#4 ++ 0b100#3 ++ 0b100000001#9) = .lea 4 0x101 := by decide

theorem test_decode_st : decode (0b0011#4 ++ 0b110#3 ++ 0b000010011#9) = .st 6 0x013 := by decide

theorem test_decode_sti : decode (0b1011#4 ++ 0b110#3 ++ 0b111101100#9) = .sti 6 0x1EC := by decide

theorem test_decode_str : decode (0b0111#4 ++ 0b110#3 ++ 0b011#3 ++ 0b010110#6) = .str 6 3 0x16 := by decide

theorem test_decode_br : decode (0b0000#4 ++ 0b1#1 ++ 0b1#1 ++ 0b0#1 ++ 0b011111110#9) = .br 0b110 0x0FE := by decide

theorem test_decode_jmp : decode (0b1100#4 ++ 0b000#3 ++ 0b101#3 ++ 0b000000#6) = .jmp 5 := by decide

theorem test_decode_jsr : decode (0b0100#4 ++ 0b1#1 ++ 0b10000000011#11) = .jsr 0x403 := by decide

theorem test_decode_jsrr : decode (0b0100#4 ++ 0b0#1 ++ 0b00#2 ++ 0b110#3 ++ 0b000000#6) = .jsrr 6 := by decide

theorem test_decode_trap : decode (0b1111#4 ++ 0b0000#4 ++ 0b00100110#8) = .trap 0x26 := by decide

theorem test_decode_getc : decode (0b1111#4 ++ 0b0000#4 ++ 0b00100000#8) = .getc := by decide

theorem test_decode_out : decode (0b1111#4 ++ 0b0000#4 ++ 0b00100001#8) = .out := by decide

theorem test_decode_puts : decode (0b1111#4 ++ 0b0000#4 ++ 0b00100010#8) = .puts := by decide

theorem test_decode_in : decode (0b1111#4 ++ 0b0000#4 ++ 0b00100011#8) = .in_ := by decide

theorem test_decode_putsp : decode (0b1111#4 ++ 0b0000#4 ++ 0b00100100#8) = .putsp := by decide

theorem test_decode_halt : decode (0b1111#4 ++ 0b0000#4 ++ 0b00100101#8) = .halt := by decide

theorem test_decode_rti : decode (0b1000#4 ++ 0b000000000000#12) = .rti := by decide

theorem test_decode_res : decode (0b1101#4 ++ 0b000000000000#12) = .res := by decide

/-- Ignored bits (R57): A4b, A11, J2b, J8, T13, N2. -/
theorem test_decode_ignored :
    decode 0x14DC#16 = .addReg 2 3 4 ∧ decode 0x96C0#16 = .not 3 3 ∧ decode 0xCEBF#16 = .jmp 2 ∧
      decode 0x46FF#16 = .jsrr 3 ∧ decode 0xFF25#16 = .halt ∧ decode 0x8FFF#16 = .rti := by decide

/-- Canonical words of the spec's programs. -/
theorem test_encode_words :
    encode (.addReg 0 1 2) = 0x1042#16 ∧ encode (.addImm 0 1 0x1D) = 0x107D#16 ∧ encode (.not 1 2) = 0x92BF#16 ∧
      encode (.ldr 0 3 0x3F) = 0x60FF#16 ∧ encode (.jmp 7) = 0xC1C0#16 ∧ encode (.jsr 4) = 0x4804#16 ∧
      encode (.jsrr 3) = 0x40C0#16 ∧ encode .halt = 0xF025#16 ∧ encode .rti = 0x8000#16 := by decide

/-! ### One step of each instruction -/

/-- The defaults of spec/95_test_vectors.md. -/
def base : State where
  regs := Vector.replicate 8 0x0000#16
  pc := 0x3000#16
  cond := Flag.bits .z
  running := true
  mem := []
  service := none
  inStream := []
  outTrace := []
  inPrompt := []

/-- A word at 0x3000 and two registers, before a step. -/
def given (w : Word) (q : RegNum) (a : Word) (r : RegNum) (b : Word) : State :=
  ((base.writeMem 0x3000#16 w).setReg q a).setReg r b

/-- What one step leaves, as far as a test looks. -/
def after {α : Type} (s : State) (look : State → α) : Option α :=
  match step s with
  | .next t => some (look t)
  | .fault _ => none
  | .refused _ => none

/-- A register, PC and COND. -/
def result (q : RegNum) (s : State) : Word × Word × BitVec 3 := (s.reg q, s.pc, s.cond)

/-- A cell, PC and COND. -/
def cell (a : Word) (s : State) : Word × Word × BitVec 3 := (s.readMem a, s.pc, s.cond)

/-- The bytes of an output. -/
def chars (bs : List Byte) : List OutEvent := bs.map .char

-- A3
theorem test_addReg_wraps_to_negative :
    after (given 0x1241 1 0x4000 1 0x4000) (result 1) = some (0x8000, 0x3001, Flag.bits .n) := by decide

-- A4
theorem test_addReg_wraps_to_zero :
    after (given 0x14C4 3 0xFFFF 4 0x0001) (result 2) = some (0x0000, 0x3001, Flag.bits .z) := by decide

-- A4d
theorem test_addImm_smallest :
    after (given 0x1BB0 5 0x5555 6 0x0010) (result 5) = some (0x0000, 0x3001, Flag.bits .z) := by decide

-- A2
theorem test_addImm_minus3 : after (given 0x107D 1 5 1 5) (result 0) = some (0x0002, 0x3001, Flag.bits .p) := by decide

-- A5
theorem test_andReg_values :
    after (given 0x5042 1 0xF0F0 2 0x3C3C) (result 0) = some (0x3030, 0x3001, Flag.bits .p) := by decide

-- A8
theorem test_andImm_sign :
    after (given 0x52B0 2 0xABCD 2 0xABCD) (result 1) = some (0xABC0, 0x3001, Flag.bits .n) := by decide

-- A9
theorem test_not_value :
    after (given 0x92BF 2 0x00FF 2 0x00FF) (result 1) = some (0xFF00, 0x3001, Flag.bits .n) := by decide

-- L3
theorem test_ld_most_negative :
    after ((given 0x2300 1 0 1 0).writeMem 0x2F01 1) (result 1) = some (0x0001, 0x3001, Flag.bits .p) := by decide

-- L3c
theorem test_ld_wraps :
    after (({ base with pc := 0x0000 }.writeMem 0x0000 0x23FE).writeMem 0xFFFF 0x8000) (result 1) =
      some (0x8000, 0x0001, Flag.bits .n) := by decide

-- L4
theorem test_ldi_through_pointer :
    after (((given 0xA202 1 0 1 0).writeMem 0x3003 0x4000).writeMem 0x4000 7) (result 1) =
      some (0x0007, 0x3001, Flag.bits .p) := by decide

-- L7
theorem test_ldr_same_register :
    after ((given 0x6240 1 0x5000 1 0x5000).writeMem 0x5000 0xC0DE) (result 1) =
      some (0xC0DE, 0x3001, Flag.bits .n) := by decide

-- L8b
theorem test_ldr_most_negative :
    after ((given 0x64E0 3 0 3 0).writeMem 0xFFE0 0x9000) (result 2) = some (0x9000, 0x3001, Flag.bits .n) := by decide

-- L11
theorem test_lea_wraps :
    after ({ base with pc := 0xFFFF }.writeMem 0xFFFF 0xEA00) (result 5) = some (0x0000, 0x0000, Flag.bits .z) := by decide

-- W2b
theorem test_st_overwrites_itself :
    after (given 0x3FFF 7 0xABCD 7 0xABCD) (cell 0x3000) = some (0xABCD, 0x3001, Flag.bits .z) := by decide

-- W4
theorem test_sti_pointer_read_first :
    after ((given 0xBA01 5 0x00AA 5 0x00AA).writeMem 0x3002 0x3002) (cell 0x3002) =
      some (0x00AA, 0x3001, Flag.bits .z) := by decide

-- W7
theorem test_str_wraps :
    after (given 0x7681 2 0xFFFF 3 0x0BAD) (cell 0x0000) = some (0x0BAD, 0x3001, Flag.bits .z) := by decide

-- B5
theorem test_br_taken : after (given 0x0404 0 0 0 0) State.pc = some 0x3005 := by decide

-- B18
theorem test_br_not_taken : after (given 0x0AFF 0 0 0 0) State.pc = some 0x3001 := by decide

-- J1
theorem test_jmp : after (given 0xC080 2 0x3010 7 0x1111) (result 7) = some (0x1111, 0x3010, Flag.bits .z) := by decide

-- J5b
theorem test_jsr_most_negative :
    after (given 0x4C00 7 0x1111 7 0x1111) (result 7) = some (0x3001, 0x2C01, Flag.bits .z) := by decide

-- J6
theorem test_jsrr : after (given 0x40C0 3 0x4000 3 0x4000) (result 7) = some (0x3001, 0x4000, Flag.bits .z) := by decide

-- J7
theorem test_jsrr_r7 : after (given 0x41C0 7 0x5000 7 0x5000) (result 7) = some (0x3001, 0x3001, Flag.bits .z) := by decide

-- T15
theorem test_trap_above_table :
    step (given 0xF026 0 1 0 1) = .fault (.undefinedTrapVector 0x26 { given 0xF026 0 1 0 1 with pc := 0x3001 }) := by
  rfl

-- T16
theorem test_trap_below_table :
    step (given 0xF01F 0 0 0 0) = .fault (.undefinedTrapVector 0x1F { given 0xF01F 0 0 0 0 with pc := 0x3001 }) := by
  rfl

-- T2b
theorem test_getc_zero_extends :
    after { given 0xF020 0 0 0 0 with inStream := [0xFF] } (result 0) = some (0x00FF, 0x3001, Flag.bits .z) := by decide

-- T3
theorem test_getc_waits :
    after (given 0xF020 0 0x1234 0 0x1234) (fun s => (s.reg 0, s.pc, s.service)) =
      some (0x1234, 0x3001, some .getc) := by decide

-- T4
theorem test_out_low_byte : after (given 0xF021 0 0x1241 0 0x1241) State.outTrace = some (chars [0x41]) := by decide

-- T9
theorem test_in_echoes :
    after { given 0xF023 0 0xFFFF 0 0xFFFF with inStream := [0x78], inPrompt := [0x3F, 0x20] }
      (fun s => (s.reg 0, s.outTrace)) = some (0x0078, chars [0x3F, 0x20, 0x78]) := by decide

-- T9b
theorem test_in_waits :
    after { given 0xF023 0 0 0 0 with inPrompt := [0x3F, 0x20] } (fun s => (s.outTrace, s.service)) =
      some (chars [0x3F, 0x20], some .in_) := by decide

-- T8
theorem test_puts_low_bytes :
    after ((((given 0xF022 0 0x4000 0 0x4000).writeMem 0x4000 0x1241).writeMem 0x4001 0x0100).writeMem 0x4002 0x0042)
      (fun s => (s.outTrace, s.service)) = some (chars [0x41, 0x00, 0x42], none) := by decide

-- T8b
theorem test_puts_wraps :
    after (((given 0xF022 0 0xFFFF 0 0xFFFF).writeMem 0xFFFF 0x0058).writeMem 0x0000 0x0059) State.outTrace =
      some (chars [0x58, 0x59]) := by decide

-- T10
theorem test_putsp_pairs :
    after (((given 0xF024 0 0x3005 0 0x3005).writeMem 0x3005 0x6548).writeMem 0x3006 0x0021)
      (fun s => (s.outTrace, s.service)) = some (chars [0x48, 0x65, 0x21, 0x00] ++ [.flush], none) := by decide

-- T11
theorem test_putsp_empty : after (given 0xF024 0 0x4000 0 0x4000) State.outTrace = some [.flush] := by decide

-- T12
theorem test_halt :
    after { given 0xF025 0 5 7 0x7777 with cond := Flag.bits .p } (fun s => (s.running, result 7 s)) =
      some (false, 0x7777, 0x3001, Flag.bits .p) := by decide

-- N1
theorem test_rti : after (given 0x8000 6 0x4000 7 0x5000) (result 7) = some (0x5000, 0x3001, Flag.bits .z) := by decide

-- N4
theorem test_res : after (given 0xD123 0 0 0 0) (result 0) = some (0x0000, 0x3001, Flag.bits .z) := by decide

/-! ### States and operands that meet the obligations' hypotheses -/

/-- `n` cells from address `k`, each holding 0x0001. -/
def onesFrom : Nat → Nat → Memory
  | 0, _ => []
  | n + 1, k => (k, 0x0001#16) :: onesFrom n (k + 1)

theorem get_onesFrom (n k a : Nat) : (onesFrom n k).get a = if k ≤ a ∧ a < k + n then 0x0001#16 else 0x0000#16 := by
  induction n generalizing k with
  | zero => simp [onesFrom, Memory.get, unlistedWord]
  | succ n ih =>
    rw [onesFrom, Memory.get, ih]
    by_cases h : k = a
    · simp [h]
    · simp only [if_neg h]; congr 1; simp only [eq_iff_iff]; omega

/-- `n` cells from address 0 hold 0x0001, every other cell 0x0000. -/
def onesBelow (n : Nat) : State := { base with mem := onesFrom n 0 }

theorem readMem_onesBelow (n : Nat) (a : Word) :
    (onesBelow n).readMem a = if a.toNat < n then 0x0001#16 else 0x0000#16 := by
  exact (get_onesFrom n 0 a.toNat).trans (by simp)

theorem base_ready : base.ready := ⟨rfl, rfl⟩

theorem base_inv : base.Inv := ⟨rfl, Memory.wf_nil, by simp [base]⟩

/-- WordPatternsSelectInstructions: a word for each pattern, the trap vectors at the ends of their ranges. -/
theorem witness_patterns :
    (0x0FFF#16).extractLsb' 12 4 = 0x0#4 ∧
    ((0x1FDF#16).extractLsb' 12 4 = 0x1#4 ∧ (0x1FDF#16).getLsbD 5 = false) ∧
    ((0x1020#16).extractLsb' 12 4 = 0x1#4 ∧ (0x1020#16).getLsbD 5 = true) ∧
    (0x2FFF#16).extractLsb' 12 4 = 0x2#4 ∧ (0x3000#16).extractLsb' 12 4 = 0x3#4 ∧
    ((0x4800#16).extractLsb' 12 4 = 0x4#4 ∧ (0x4800#16).getLsbD 11 = true) ∧
    ((0x47FF#16).extractLsb' 12 4 = 0x4#4 ∧ (0x47FF#16).getLsbD 11 = false) ∧
    ((0x5FDF#16).extractLsb' 12 4 = 0x5#4 ∧ (0x5FDF#16).getLsbD 5 = false) ∧
    ((0x5020#16).extractLsb' 12 4 = 0x5#4 ∧ (0x5020#16).getLsbD 5 = true) ∧
    (0x6FFF#16).extractLsb' 12 4 = 0x6#4 ∧ (0x7000#16).extractLsb' 12 4 = 0x7#4 ∧
    (0x8FFF#16).extractLsb' 12 4 = 0x8#4 ∧ (0x9000#16).extractLsb' 12 4 = 0x9#4 ∧
    (0xAFFF#16).extractLsb' 12 4 = 0xA#4 ∧ (0xB000#16).extractLsb' 12 4 = 0xB#4 ∧
    (0xCFFF#16).extractLsb' 12 4 = 0xC#4 ∧ (0xD000#16).extractLsb' 12 4 = 0xD#4 ∧
    (0xEFFF#16).extractLsb' 12 4 = 0xE#4 ∧
    (∀ k : Fin 6, (0xFF20#16 + BitVec.ofNat 16 k).extractLsb' 12 4 = 0xF#4 ∧
      (0xFF20#16 + BitVec.ofNat 16 k).extractLsb' 0 8 = BitVec.ofNat 8 (0x20 + k)) ∧
    ((0xF01F#16).extractLsb' 12 4 = 0xF#4 ∧ ((0xF01F#16).extractLsb' 0 8).toNat < 0x20) ∧
    ((0xF026#16).extractLsb' 12 4 = 0xF#4 ∧ 0x25 < ((0xF026#16).extractLsb' 0 8).toNat) := by decide

/-- DecodeUndoesEncode. -/
theorem witness_wellFormed :
    (Instr.addImm 7 0 0x10).wellFormed = true ∧ (Instr.trap 0x1F).wellFormed = true ∧
      (Instr.trap 0x26).wellFormed = true ∧ Instr.halt.wellFormed = true := by decide

/-- SignExtensionKeepsFieldAndSign: each width, both signs, the ends of the range. -/
theorem witness_sext :
    (0x10#5).msb = true ∧ (0x0F#5).msb = false ∧ (0x20#6).msb = true ∧ (0x1F#6).msb = false ∧
      (0x100#9).msb = true ∧ (0x0FF#9).msb = false ∧ (0x400#11).msb = true ∧ (0x3FF#11).msb = false := by decide

/-- CanonicalMemoriesReadingAlikeAreEqual. -/
theorem witness_canonical : Memory.wf [(0x0000, 0xFFFF#16), (0xFFFF, 0x0001#16)] := by decide

/-- StoreIsSeenByNextFetch: ST, STI and STR onto the cell in PC. -/
theorem witness_store_next :
    (storedReg (.st 1 0) = some 1 ∧ storeAddr base (.st 1 0) = some base.pc) ∧
    (storedReg (.sti 2 0x1FF) = some 2 ∧
      storeAddr (base.writeMem 0x2FFF 0x3000) (.sti 2 0x1FF) = some (base.writeMem 0x2FFF 0x3000).pc) ∧
    (storedReg (.str 3 4 0x20) = some 3 ∧
      storeAddr (base.setReg 4 0x3020) (.str 3 4 0x20) = some (base.setReg 4 0x3020).pc) := by decide

/-- Parameters with an image of two words. -/
def params : Params where
  gpr := #v[1, 2, 3, 4, 5, 6, 7, 8]
  cond := .n
  image := [0x1021, 0xF025]
  inStream := [0x61]
  inPrompt := [0x3E]

/-- RunStartsAtLoadAddress, EveryStartMeetsInvariant, OnlyHaltEndsTheRun: a start, and its image's first word. -/
theorem witness_start : ∃ s, State.start params = .next s ∧ params.image = 0x1021 :: [0xF025] := ⟨_, rfl, rfl⟩

/-- StartPlacesImageVerbatim: no image, the longest image and one word more; the addresses beside the image. -/
theorem witness_image :
    (({ params with image := [] } : Params).image.length ≤ 0xD000) ∧
    (({ params with image := List.replicate 0xD000 0x0001#16 } : Params).image.length ≤ 0xD000) ∧
    (0xD000 < ({ params with image := List.replicate 0xD001 0x0001#16 } : Params).image.length) ∧
    (0x2FFF#16).toNat < 0x3000 ∧ 0x3000 + params.image.length ≤ (0x3002#16).toNat := by
  simp only [List.length_replicate]; decide

/-- EveryWordDecodes, StepKeepsInvariant, StepRunsDecodedInstruction, PcAfterEachInstruction: a ready state that meets the invariant, and its
next state. -/
theorem witness_step : base.Inv ∧ base.ready ∧ ∃ t, step base = .next t := ⟨base_inv, base_ready, _, rfl⟩

/-- SetccSetsExactlyOneFlag: each clause at the ends of its range. -/
theorem witness_setcc :
    (0x8000#16).getLsbD 15 = true ∧ (0xFFFF#16).getLsbD 15 = true ∧
      (0x0001#16 ≠ 0x0000#16 ∧ (0x0001#16).getLsbD 15 = false) ∧
      (0x7FFF#16 ≠ 0x0000#16 ∧ (0x7FFF#16).getLsbD 15 = false) := by decide

/-- ExactlySevenInstructionsSetCond, ExecChangesOnlyWhatTheTablesName: an instruction that sets COND, and one that stores. -/
theorem witness_exec :
    ((∃ t, exec (.lea 2 5) base = .next t) ∧ setsCond (.lea 2 5) = true ∧ destReg (.lea 2 5) ≠ some 3 ∧
      storeAddr base (.lea 2 5) ≠ some 0x3005 ∧ writesPc (.lea 2 5) = false ∧ (Instr.lea 2 5).opcode ≠ .trap) ∧
    ((∃ t, exec (.st 1 5) base = .next t) ∧ setsCond (.st 1 5) = false ∧ destReg (.st 1 5) ≠ some 1 ∧
      storeAddr base (.st 1 5) ≠ some 0x3004 ∧ writesPc (.st 1 5) = false ∧ (Instr.st 1 5).opcode ≠ .trap) :=
  ⟨⟨⟨_, rfl⟩, by decide⟩, ⟨⟨_, rfl⟩, by decide⟩⟩

/-- CondIsReadByBrOnly. -/
theorem witness_not_br : (∀ mask off9, Instr.not 1 2 ≠ .br mask off9) ∧ ∃ t, exec (.not 1 2) base = .next t :=
  ⟨by simp, _, rfl⟩

/-- OnlyHaltEndsTheRun: a step that changes `running`, and a halted state. -/
theorem witness_halt :
    (∃ t, step (base.writeMem 0x3000 0xF025) = .next t ∧ t.running ≠ (base.writeMem 0x3000 0xF025).running) ∧
      base.stop.running = false := ⟨⟨_, rfl, by decide⟩, rfl⟩

/-- BranchMaskTable. -/
theorem witness_oneHot : oneHot (0b100#3) = true ∧ oneHot (0b010#3) = true ∧ oneHot (0b001#3) = true := by decide

/-- TrapRunsServiceOfVector and TrapOutsideTableFaults: the vectors at the ends of their ranges. -/
theorem witness_vectors :
    (0x20 ≤ (0x20#8).toNat ∧ (0x20#8).toNat ≤ 0x25) ∧ (0x20 ≤ (0x25#8).toNat ∧ (0x25#8).toNat ≤ 0x25) ∧
      (0x00#8).toNat < 0x20 ∧ (0x1F#8).toNat < 0x20 ∧ 0x25 < (0x26#8).toNat ∧ 0x25 < (0xFF#8).toNat := by decide

/-- StepStopsOnlyAtUndefinedTrap: a step that faults. -/
theorem witness_fault :
    ∃ f, step (base.writeMem 0x3000 0xF0FF) = .fault f ∧ (base.writeMem 0x3000 0xF0FF).ready := ⟨_, rfl, rfl, rfl⟩

/-- GetcReadsOneCharacter, InPromptsReadsAndEchoes: the characters 0x00 and 0xFF. -/
theorem witness_char :
    (base.deliver [0x00, 0x61]).inStream = 0x00#8 :: [0x61] ∧ (base.deliver [0xFF]).inStream = 0xFF#8 :: [] := by decide

/-- PutsWritesUntilZeroCell, PutspWritesPackedUntilZeroCell: no cell before the terminator, and 65535 of them. -/
theorem witness_string :
    (base.readMem (base.reg 0 + BitVec.ofNat 16 0) = 0x0000#16) ∧
    ((∀ k, k < 65535 → (onesBelow 65535).readMem ((onesBelow 65535).reg 0 + BitVec.ofNat 16 k) ≠ 0x0000#16) ∧
      (onesBelow 65535).readMem ((onesBelow 65535).reg 0 + BitVec.ofNat 16 65535) = 0x0000#16) := by
  have r0 : (onesBelow 65535).reg 0 = 0x0000#16 := rfl
  refine ⟨by decide, fun k hk => ?_, ?_⟩
  · rw [readMem_onesBelow, r0, if_pos (by simp; omega)]; decide
  · rw [readMem_onesBelow, r0, if_neg (by simp)]

/-- GetcAndInWaitForInput, StarvedCoreWaitsUntilDelivery: both services. -/
theorem witness_starved :
    (base.inStream = [] ∧ base.running = true) ∧ (base.setService (some .getc)).inputStarved ∧
      (base.setService (some .in_)).inputStarved := ⟨⟨rfl, rfl⟩, ⟨rfl, .inl rfl, rfl⟩, ⟨rfl, .inr rfl, rfl⟩⟩

/-- StringServiceWithoutTerminatorNeverEnds: no zero cell, before and within both services. -/
theorem witness_never_ends :
    (onesBelow 65536).running = true ∧ (∀ a, (onesBelow 65536).readMem a ≠ 0x0000#16) ∧
      (∀ a, ((onesBelow 65536).setService (some (.puts 0x4000))).readMem a ≠ 0x0000#16) ∧
      ((onesBelow 65536).setService (some (.puts 0x4000))).service = some (.puts 0x4000) ∧
      ((onesBelow 65536).setService (some (.putsp 0x4000))).service = some (.putsp 0x4000) := by
  have full : ∀ a, (onesBelow 65536).readMem a ≠ 0x0000#16 := fun a => by
    rw [readMem_onesBelow, if_pos a.isLt]; decide
  exact ⟨rfl, full, full, rfl, rfl⟩

/-- StepAppendsOutputAndConsumesInOrder: a step that consumes and appends. -/
theorem witness_ports :
    ∃ t, step ({ base with inStream := [0x61] }.writeMem 0x3000 0xF023) = .next t ∧ t.outTrace = chars [0x61] :=
  ⟨_, rfl, by decide⟩

/-- ReservedOpcodesAreNoOps: a ready state at each reserved opcode. -/
theorem witness_reserved :
    ((base.writeMem 0x3000 0x8FFF).ready ∧ (base.writeMem 0x3000 0x8FFF).fetchWord.extractLsb' 12 4 = 0x8#4) ∧
      ((base.writeMem 0x3000 0xD000).ready ∧ (base.writeMem 0x3000 0xD000).fetchWord.extractLsb' 12 4 = 0xD#4) :=
  ⟨⟨⟨rfl, rfl⟩, by decide⟩, ⟨⟨rfl, rfl⟩, by decide⟩⟩

/-- SnapshotListsNonzeroCells. -/
theorem witness_snapshot : (base.writeMem 0x3000 0x1234).Inv :=
  ⟨rfl, Memory.wf_write base.mem 0x3000 0x1234 Memory.wf_nil, by simp [base, State.writeMem]⟩
end Sys2Proof.Tests
end

section
/-! PROOFS. Memory as a sequence of writes leaves it (spec/20_memory.md R31, R32). -/

namespace Sys2Proof.Machine

/-- The last write of a sequence decides what its cell reads as: `Memory.read_write`, along the sequence from its end. -/
theorem Memory.read_foldl_write (m : Memory) (ws : List (Word × Word)) (a : Word) :
    (ws.foldl (fun acc w => acc.write w.1 w.2) m).read a =
      ((ws.reverse.find? (fun w => w.1 == a)).map Prod.snd).getD (m.read a) := by
  induction ws using List.reverseRecOn with
  | nil => rfl
  | append_singleton ws w ih =>
    rw [List.foldl_concat, Memory.read_write, List.reverse_concat, List.find?_cons, ih]
    by_cases hw : w.1 = a
    · simp [hw]
    · have unwritten : (w.1 == a) = false := beq_false_of_ne hw
      rw [if_neg (Ne.symm hw), unwritten]

/-- No cell is listed at reset (R172). -/
@[simp] theorem State.readMem_reset (a : Word) : State.reset.readMem a = 0x0000#16 := rfl

/-- Settles O8: the last write decides, and the memory of reset lists no cell. -/
theorem readReturnsMostRecentWrite : Obligations.ReadReturnsMostRecentWrite := by
  refine ⟨fun m ws a => ?_, State.readMem_reset⟩
  rw [Memory.read_foldl_write]
  cases ws.reverse.find? (fun w => w.1 == a) with
  | none => rfl
  | some w => rfl

/-- Settles O9: the two cases of `State.readMem_writeMem`. -/
theorem writeChangesExactlyOneCell : Obligations.WriteChangesExactlyOneCell := fun s addr v =>
  ⟨State.readMem_writeMem_self s addr v, fun b hb => by rw [State.readMem_writeMem, if_neg hb]⟩

end Sys2Proof.Machine
end

section
/-! PROOFS. Sign extension of an instruction's field (spec/30_encoding.md R55). -/

namespace Sys2Proof.Machine

/-- R55's first case. -/
theorem sext_of_msb_true {n : Nat} {v : BitVec n} (hv : v.msb = true) :
    sext v = v.setWidth 16 ||| (0xFFFF#16 <<< n) := if_pos hv

/-- R55's second case. -/
theorem sext_of_msb_false {n : Nat} {v : BitVec n} (hv : v.msb = false) : sext v = v.setWidth 16 := by
  rw [sext, hv, if_neg Bool.false_ne_true]

/-- The mask of R55, "all higher bits set to 1". -/
theorem getLsbD_highOnes (n : Nat) {i : Nat} (hi : i < 16) : (0xFFFF#16 <<< n).getLsbD i = decide (n ≤ i) := by
  have low : i - n < 16 := by omega
  rw [show 0xFFFF#16 = BitVec.allOnes 16 from rfl, BitVec.getLsbD_shiftLeft, BitVec.getLsbD_allOnes]
  simp only [hi, low, decide_true, Bool.true_and, Bool.and_true, ← decide_not, Nat.not_lt]

/-- R55's two cases are the library's sign extension: OR-ing the mask leaves the field's bits and repeats its high bit
above them. -/
theorem sext_eq_signExtend {n : Nat} (v : BitVec n) : sext v = v.signExtend 16 := by
  cases hv : v.msb with
  | false => rw [sext_of_msb_false hv, BitVec.signExtend_eq_setWidth_of_msb_false hv]
  | true =>
    rw [sext_of_msb_true hv]
    refine BitVec.eq_of_getLsbD_eq fun i hi => ?_
    rw [BitVec.getLsbD_or, getLsbD_highOnes n hi, BitVec.getLsbD_setWidth, BitVec.getLsbD_signExtend, hv]
    by_cases inField : i < n
    · simp [inField]
    · simp [inField, Nat.le_of_not_lt inField, hi]

/-- R55's round trip: the low `n` bits of the extended word are the field. -/
theorem setWidth_sext {n : Nat} (hn : n ≤ 16) (v : BitVec n) : (sext v).setWidth n = v := by
  rw [sext_eq_signExtend]
  ext i hi
  simp [BitVec.getElem_signExtend, BitVec.getLsbD_eq_getElem (Nat.lt_of_lt_of_le hi hn), hi]

/-- The extended word has the field's two's-complement value. -/
theorem toInt_sext {n : Nat} (hn : n ≤ 16) (v : BitVec n) : (sext v).toInt = v.toInt := by
  rw [sext_eq_signExtend, BitVec.toInt_signExtend_of_le hn]

/-- Settles O7: R55's two cases, the round trip and the value hold of every field no wider than a word; the examples
are evaluated. -/
theorem signExtensionKeepsFieldAndSign : Obligations.SignExtensionKeepsFieldAndSign := by
  refine ⟨fun n width v => ?_, by decide⟩
  have hn : n ≤ 16 := by omega
  exact ⟨sext_of_msb_true, sext_of_msb_false, setWidth_sext hn v, toInt_sext hn v⟩

end Sys2Proof.Machine
end

section
/-! PROOFS. COND: what setcc writes, and which instructions call it (spec/40_fetch_execute_loop.md R74 to R76). -/

namespace Sys2Proof.Machine

/-! ### The flag of a value -/

theorem condOf_zero : condOf 0x0000#16 = Flag.bits .z := rfl

theorem condOf_of_bit15 {v : Word} (hv : v.getLsbD 15 = true) : condOf v = Flag.bits .n := by
  have nonzero : v ≠ 0x0000#16 := by rintro rfl; exact absurd hv (by decide)
  rw [condOf_eq, if_neg nonzero, if_pos hv]

theorem condOf_of_positive {v : Word} (nonzero : v ≠ 0x0000#16) (hv : v.getLsbD 15 = false) :
    condOf v = Flag.bits .p := by
  rw [condOf_eq, if_neg nonzero, hv, if_neg Bool.false_ne_true]

/-- Settles O20: COND after setcc is `condOf` of the value, whatever the state before. -/
theorem setccSetsExactlyOneFlag : Obligations.SetccSetsExactlyOneFlag := by
  refine ⟨fun s v => ⟨?zero, condOf_of_bit15, condOf_of_positive, oneHot_condOf v, fun _ => rfl⟩, fun s => ?boundary⟩
  case zero => rintro rfl; exact condOf_zero
  case boundary =>
    simp only [State.setcc_cond]
    decide

/-! ### What exec does to COND -/

theorem setsCond_iff_opcode (i : Instr) : setsCond i = true ↔
    i.opcode ∈ [Opcode.add, Opcode.and, Opcode.not, Opcode.ld, Opcode.ldi, Opcode.ldr, Opcode.lea] := by
  cases i <;> simp [setsCond, Instr.opcode]

/-- An instruction that calls setcc writes a value to its destination register, with its flag, and does nothing else (R76). -/
theorem exec_of_setsCond {i : Instr} (hi : setsCond i = true) (s : State) :
    ∃ dr v, destReg i = some dr ∧ exec i s = .next (s.writeResult dr v) := by
  cases i with
  | addReg | addImm | andReg | andImm | not | ld | ldi | ldr | lea => exact ⟨_, _, rfl, rfl⟩
  | _ => cases hi

theorem execTrap_of_service {v : BitVec 8} {service : TrapService} (hv : serviceOfVector v = some service) (s : State) :
    execTrap v s = .next (runService service s) := by simp [execTrap, hv]

theorem execTrap_of_undefined {v : BitVec 8} (hv : serviceOfVector v = none) (s : State) :
    execTrap v s = .fault (.undefinedTrapVector v s) := by simp [execTrap, hv]

/-- An instruction of the TRAP executor that answers a next state has run a service (R120). -/
theorem exec_trap_cases {i : Instr} {s t : State} (hi : i.opcode = .trap) (h : exec i s = .next t) :
    ∃ service, t = runService service s := by
  cases i with
  | trap v =>
    change execTrap v s = .next t at h
    cases hv : serviceOfVector v with
    | some service => exact ⟨service, Host.Outcome.next.inj (h.symm.trans (execTrap_of_service hv s))⟩
    | none => cases h.symm.trans (execTrap_of_undefined hv s)
  | getc => exact ⟨.getc, (Host.Outcome.next.inj h).symm⟩
  | out => exact ⟨.out, (Host.Outcome.next.inj h).symm⟩
  | puts => exact ⟨.puts, (Host.Outcome.next.inj h).symm⟩
  | in_ => exact ⟨.in_, (Host.Outcome.next.inj h).symm⟩
  | putsp => exact ⟨.putsp, (Host.Outcome.next.inj h).symm⟩
  | halt => exact ⟨.halt, (Host.Outcome.next.inj h).symm⟩
  | _ => cases hi

@[simp] theorem runService_cond (service : TrapService) (s : State) : (runService service s).cond = s.cond := by
  obtain ⟨-, hcond, -⟩ := runService_frame service s
  exact hcond

@[simp] theorem resumeService_cond (p : Pending) (s : State) : (resumeService p s).cond = s.cond := by
  obtain ⟨-, hcond, -⟩ := resumeService_frame p s
  exact hcond

/-- The other instructions store, transfer control, run a service or do nothing: none writes COND. -/
theorem exec_cond_of_not_setsCond {i : Instr} {s t : State} (hi : setsCond i = false) (h : exec i s = .next t) :
    t.cond = s.cond := by
  cases i with
  | addReg | addImm | andReg | andImm | not | ld | ldi | ldr | lea => cases hi
  | st | sti | str | jmp | jsr | jsrr | rti | res => obtain rfl := Host.Outcome.next.inj h; rfl
  | br mask off9 =>
    obtain rfl := Host.Outcome.next.inj h
    split <;> rfl
  | trap | getc | out | puts | in_ | putsp | halt =>
    obtain ⟨service, rfl⟩ := exec_trap_cases rfl h
    exact runService_cond service s

/-- Settles O21: the seven executors end in `writeResult`, whose COND is the flag of what DR then holds; no other
instruction and no resumed service writes COND. -/
theorem exactlySevenInstructionsSetCond : Obligations.ExactlySevenInstructionsSetCond := by
  refine ⟨setsCond_iff_opcode, fun i s t h => ⟨fun hi => ?_, fun hi => exec_cond_of_not_setsCond hi h⟩,
    resumeService_cond⟩
  obtain ⟨dr, v, hdr, hexec⟩ := exec_of_setsCond hi s
  obtain rfl : s.writeResult dr v = t := Host.Outcome.next.inj (hexec.symm.trans h)
  exact ⟨dr, hdr, by simp [State.reg_writeResult]⟩

end Sys2Proof.Machine
end

section
/-! PROOFS. A step fetches, increments PC and dispatches on the opcode field (spec/40_fetch_execute_loop.md R71, R72). -/

namespace Sys2Proof

theorem opcode_decodeTrap (v : BitVec 8) : (decodeTrap v).opcode = .trap := by
  unfold decodeTrap
  split <;> rfl

/-- A word decodes to an instruction of the executor that its opcode field selects. -/
theorem opcode_decode (w : Word) : (decode w).opcode = opcodeOfBits (fieldOpcode w) := by
  unfold decode
  cases opcodeOfBits (fieldOpcode w) with
  | add | and | jsr => dsimp only; split <;> rfl
  | trap => exact opcode_decodeTrap (fieldVector w)
  | _ => rfl

end Sys2Proof

namespace Sys2Proof.Machine

/-- Settles O18: `step_of_ready` with the fetch and the increment written out, and `opcode_decode`. -/
theorem stepRunsDecodedInstruction : Obligations.StepRunsDecodedInstruction :=
  ⟨fun _ ready => step_of_ready ready, opcode_decode⟩

end Sys2Proof.Machine
end

section
/-! PROOFS. The start of a run (spec/70_reset_and_hazards.md R170 to R175): the state it answers, and the first fetch. -/

namespace Sys2Proof.Machine

/-- A start that answers a state has an image that fits, and every field at its parameter. -/
theorem State.start_eq_next {p : Params} {s : State} (h : State.start p = .next s) :
    p.image.length ≤ Config.maxImageWords ∧
      s = { regs := p.gpr, pc := Config.loadAddr, cond := p.cond.bits, running := true,
            mem := loadImage [] Config.loadAddr p.image, service := none, inStream := p.inStream, outTrace := [],
            inPrompt := p.inPrompt } := by
  unfold State.start at h
  split at h
  next fits => exact ⟨fits, (Host.Outcome.next.inj h).symm⟩
  next => cases h

/-- The first word of an image is at the address it is loaded to (R172). -/
theorem loadImage_read_head (w : Word) (ws : List Word) (m : Memory) (a : Word) (h : (w :: ws).length ≤ 65536) :
    (loadImage m a (w :: ws)).read a = w := by
  simp [loadImage_read _ _ _ _ h]

theorem State.fetchWord_start {p : Params} {s : State} (h : State.start p = .next s) {w : Word} {ws : List Word}
    (himage : p.image = w :: ws) : s.fetchWord = w := by
  obtain ⟨fits, rfl⟩ := State.start_eq_next h
  rw [himage] at fits ⊢
  exact loadImage_read_head w ws _ _ (fits.trans (by decide))

theorem State.ready_start {p : Params} {s : State} (h : State.start p = .next s) : s.ready := by
  obtain ⟨-, rfl⟩ := State.start_eq_next h
  exact ⟨rfl, rfl⟩

/-- Settles O13: a started state is ready, so its first step runs the word at PC, and that is the head of the image. -/
theorem runStartsAtLoadAddress : Obligations.RunStartsAtLoadAddress := by
  refine ⟨rfl, fun p s h => ⟨?pc, fun w ws himage => ?first⟩⟩
  case pc =>
    obtain ⟨-, rfl⟩ := State.start_eq_next h
    rfl
  case first =>
    have fetched : s.fetchWord = w := State.fetchWord_start h himage
    refine ⟨fetched, ?_⟩
    rw [step_of_ready (State.ready_start h), fetched]

end Sys2Proof.Machine
end

section
/-! PROOFS. The decoder, one equation per opcode and form (spec/30_encoding.md R52 to R54, R59), and the round trips with the
encoder (R51, R57). -/

namespace Sys2Proof

open Machine (serviceOfVector_isSome serviceOfVector_vectorOfService)

/-! ### The instruction of a word, by its opcode field -/

theorem decode_br {w : Word} (op : opcodeOfBits (fieldOpcode w) = .br) : decode w = .br (fieldMask w) (fieldOff9 w) := by
  simp [decode, op]

theorem decode_addReg {w : Word} (op : opcodeOfBits (fieldOpcode w) = .add) (flag : fieldImmFlag w = false) :
    decode w = .addReg (fieldDr w) (fieldSr1 w) (fieldSr2 w) := by simp [decode, op, flag]

theorem decode_addImm {w : Word} (op : opcodeOfBits (fieldOpcode w) = .add) (flag : fieldImmFlag w = true) :
    decode w = .addImm (fieldDr w) (fieldSr1 w) (fieldImm5 w) := by simp [decode, op, flag]

theorem decode_ld {w : Word} (op : opcodeOfBits (fieldOpcode w) = .ld) : decode w = .ld (fieldDr w) (fieldOff9 w) := by
  simp [decode, op]

theorem decode_st {w : Word} (op : opcodeOfBits (fieldOpcode w) = .st) : decode w = .st (fieldDr w) (fieldOff9 w) := by
  simp [decode, op]

theorem decode_jsr {w : Word} (op : opcodeOfBits (fieldOpcode w) = .jsr) (long : fieldLong w = true) :
    decode w = .jsr (fieldOff11 w) := by simp [decode, op, long]

theorem decode_jsrr {w : Word} (op : opcodeOfBits (fieldOpcode w) = .jsr) (long : fieldLong w = false) :
    decode w = .jsrr (fieldBaseR w) := by simp [decode, op, long]

theorem decode_andReg {w : Word} (op : opcodeOfBits (fieldOpcode w) = .and) (flag : fieldImmFlag w = false) :
    decode w = .andReg (fieldDr w) (fieldSr1 w) (fieldSr2 w) := by simp [decode, op, flag]

theorem decode_andImm {w : Word} (op : opcodeOfBits (fieldOpcode w) = .and) (flag : fieldImmFlag w = true) :
    decode w = .andImm (fieldDr w) (fieldSr1 w) (fieldImm5 w) := by simp [decode, op, flag]

theorem decode_ldr {w : Word} (op : opcodeOfBits (fieldOpcode w) = .ldr) :
    decode w = .ldr (fieldDr w) (fieldBaseR w) (fieldOff6 w) := by simp [decode, op]

theorem decode_str {w : Word} (op : opcodeOfBits (fieldOpcode w) = .str) :
    decode w = .str (fieldDr w) (fieldBaseR w) (fieldOff6 w) := by simp [decode, op]

theorem decode_rti {w : Word} (op : opcodeOfBits (fieldOpcode w) = .rti) : decode w = .rti := by simp [decode, op]

theorem decode_not {w : Word} (op : opcodeOfBits (fieldOpcode w) = .not) : decode w = .not (fieldDr w) (fieldSr1 w) := by
  simp [decode, op]

theorem decode_ldi {w : Word} (op : opcodeOfBits (fieldOpcode w) = .ldi) : decode w = .ldi (fieldDr w) (fieldOff9 w) := by
  simp [decode, op]

theorem decode_sti {w : Word} (op : opcodeOfBits (fieldOpcode w) = .sti) : decode w = .sti (fieldDr w) (fieldOff9 w) := by
  simp [decode, op]

theorem decode_jmp {w : Word} (op : opcodeOfBits (fieldOpcode w) = .jmp) : decode w = .jmp (fieldBaseR w) := by
  simp [decode, op]

theorem decode_res {w : Word} (op : opcodeOfBits (fieldOpcode w) = .res) : decode w = .res := by simp [decode, op]

theorem decode_lea {w : Word} (op : opcodeOfBits (fieldOpcode w) = .lea) : decode w = .lea (fieldDr w) (fieldOff9 w) := by
  simp [decode, op]

theorem decode_trap {w : Word} (op : opcodeOfBits (fieldOpcode w) = .trap) : decode w = decodeTrap (fieldVector w) := by
  simp [decode, op]

/-! ### The instruction of a trap vector -/

/-- The table has no service for the vectors outside 0x20..0x25 (R59). -/
theorem serviceOfVector_eq_none_iff (v : BitVec 8) : serviceOfVector v = none ↔ v.toNat < 0x20 ∨ 0x25 < v.toNat := by
  have inTable : vectorInTable v = true ↔ 0x20 ≤ v.toNat ∧ v.toNat < 0x26 := by
    simp [vectorInTable, Config.trapBase, Config.numTraps]
  rw [← Option.not_isSome_iff_eq_none, serviceOfVector_isSome, inTable]
  omega

theorem decodeTrap_of_undefined {v : BitVec 8} (hv : serviceOfVector v = none) : decodeTrap v = .trap v := by
  simp [decodeTrap, hv]

/-- The constructor of a service (R121). -/
def instrOfService : TrapService → Instr
  | .getc => .getc
  | .out => .out
  | .puts => .puts
  | .in_ => .in_
  | .putsp => .putsp
  | .halt => .halt

theorem decodeTrap_of_service {v : BitVec 8} {service : TrapService} (hv : serviceOfVector v = some service) :
    decodeTrap v = instrOfService service := by
  cases service <;> simp [decodeTrap, hv, instrOfService]

@[simp] theorem decodeTrap_vectorOfService (service : TrapService) :
    decodeTrap (vectorOfService service) = instrOfService service :=
  decodeTrap_of_service (serviceOfVector_vectorOfService service)

theorem wellFormed_decodeTrap (v : BitVec 8) : (decodeTrap v).wellFormed = true := by
  cases hv : serviceOfVector v with
  | none =>
    rw [decodeTrap_of_undefined hv, Instr.wellFormed, ← serviceOfVector_isSome, hv]
    rfl
  | some service =>
    rw [decodeTrap_of_service hv]
    cases service <;> rfl

/-- Only the words of TRAP are not well-formed by their constructor alone (R59). -/
theorem wellFormed_decode (w : Word) : (decode w).wellFormed = true := by
  cases op : opcodeOfBits (fieldOpcode w) with
  | trap => rw [decode_trap op]; exact wellFormed_decodeTrap _
  | add | and | jsr => simp only [decode, op]; split <;> rfl
  | _ => simp only [decode, op]; rfl

/-! ### The patterns of the formats -/

theorem opcode_of_bits {w : Word} {b : BitVec 4} (h : w.extractLsb' 12 4 = b) : opcodeOfBits (fieldOpcode w) = opcodeOfBits b :=
  congrArg opcodeOfBits h

theorem decode_of_vector {w : Word} {v : BitVec 8} (op : w.extractLsb' 12 4 = 0xF#4) (hv : w.extractLsb' 0 8 = v) :
    decode w = decodeTrap v :=
  (decode_trap (opcode_of_bits op)).trans (congrArg decodeTrap hv)

/-- Settles O2: the equation of each opcode and form. -/
theorem wordPatternsSelectInstructions : Obligations.WordPatternsSelectInstructions := fun _ =>
  ⟨fun op => decode_br (opcode_of_bits op),
    fun op => decode_addReg (opcode_of_bits op), fun op => decode_addImm (opcode_of_bits op),
    fun op => decode_ld (opcode_of_bits op), fun op => decode_st (opcode_of_bits op),
    fun op => decode_jsr (opcode_of_bits op), fun op => decode_jsrr (opcode_of_bits op),
    fun op => decode_andReg (opcode_of_bits op), fun op => decode_andImm (opcode_of_bits op),
    fun op => decode_ldr (opcode_of_bits op), fun op => decode_str (opcode_of_bits op),
    fun op => decode_rti (opcode_of_bits op), fun op => decode_not (opcode_of_bits op),
    fun op => decode_ldi (opcode_of_bits op), fun op => decode_sti (opcode_of_bits op),
    fun op => decode_jmp (opcode_of_bits op), fun op => decode_res (opcode_of_bits op),
    fun op => decode_lea (opcode_of_bits op),
    decode_of_vector, decode_of_vector, decode_of_vector, decode_of_vector, decode_of_vector, decode_of_vector,
    fun op outside => (decode_of_vector op rfl).trans
      (decodeTrap_of_undefined ((serviceOfVector_eq_none_iff _).2 outside))⟩

/-! ### Decode after encode -/

theorem decode_assemble_trap (v : BitVec 8) : decode (assemble .trap (formatTrap v)) = decodeTrap v := by
  rw [decode_trap (Laws.OpcodeOfEncoding.opcode_assemble _ _), fieldVector_assemble]

theorem decode_assemble_service (service : TrapService) :
    decode (assemble .trap (formatTrap (vectorOfService service))) = instrOfService service := by
  rw [decode_assemble_trap, decodeTrap_vectorOfService]

theorem decode_encode (i : Instr) (wf : i.wellFormed = true) : decode (encode i) = i := by
  have op : ∀ o low, opcodeOfBits (fieldOpcode (assemble o low)) = o := Laws.OpcodeOfEncoding.opcode_assemble
  cases i with
  | addReg dr sr1 sr2 =>
    obtain ⟨hdr, hsr1, hsr2, flag⟩ := fields_formatOpr .add dr sr1 sr2
    rw [encode, decode_addReg (op _ _) flag, hdr, hsr1, hsr2]
  | andReg dr sr1 sr2 =>
    obtain ⟨hdr, hsr1, hsr2, flag⟩ := fields_formatOpr .and dr sr1 sr2
    rw [encode, decode_andReg (op _ _) flag, hdr, hsr1, hsr2]
  | addImm dr sr1 imm5 =>
    obtain ⟨hdr, hsr1, himm, flag⟩ := fields_formatOpi .add dr sr1 imm5
    rw [encode, decode_addImm (op _ _) flag, hdr, hsr1, himm]
  | andImm dr sr1 imm5 =>
    obtain ⟨hdr, hsr1, himm, flag⟩ := fields_formatOpi .and dr sr1 imm5
    rw [encode, decode_andImm (op _ _) flag, hdr, hsr1, himm]
  | not dr sr1 =>
    obtain ⟨hdr, hsr1⟩ := fields_formatNot .not dr sr1
    rw [encode, decode_not (op _ _), hdr, hsr1]
  | ldr dr baseR off6 =>
    obtain ⟨hdr, hbase, hoff⟩ := fields_formatBase6 .ldr dr baseR off6
    rw [encode, decode_ldr (op _ _), hdr, hbase, hoff]
  | str sr baseR off6 =>
    obtain ⟨hsr, hbase, hoff⟩ := fields_formatBase6 .str sr baseR off6
    rw [encode, decode_str (op _ _), hsr, hbase, hoff]
  | ld dr off9 =>
    obtain ⟨hdr, -, hoff⟩ := fields_formatPc9 .ld dr off9
    rw [encode, decode_ld (op _ _), hdr, hoff]
  | ldi dr off9 =>
    obtain ⟨hdr, -, hoff⟩ := fields_formatPc9 .ldi dr off9
    rw [encode, decode_ldi (op _ _), hdr, hoff]
  | lea dr off9 =>
    obtain ⟨hdr, -, hoff⟩ := fields_formatPc9 .lea dr off9
    rw [encode, decode_lea (op _ _), hdr, hoff]
  | st sr off9 =>
    obtain ⟨hsr, -, hoff⟩ := fields_formatPc9 .st sr off9
    rw [encode, decode_st (op _ _), hsr, hoff]
  | sti sr off9 =>
    obtain ⟨hsr, -, hoff⟩ := fields_formatPc9 .sti sr off9
    rw [encode, decode_sti (op _ _), hsr, hoff]
  | br mask off9 =>
    obtain ⟨-, hmask, hoff⟩ := fields_formatPc9 .br mask off9
    rw [encode, decode_br (op _ _), hmask, hoff]
  | jmp baseR => rw [encode, decode_jmp (op _ _), fields_formatJmp]
  | jsr off11 =>
    obtain ⟨hoff, long⟩ := fields_formatJsr .jsr off11
    rw [encode, decode_jsr (op _ _) long, hoff]
  | jsrr baseR =>
    obtain ⟨hbase, long⟩ := fields_formatJsrr .jsr baseR
    rw [encode, decode_jsrr (op _ _) long, hbase]
  | trap v =>
    have undefined : serviceOfVector v = none := by
      simpa [Instr.wellFormed, ← serviceOfVector_isSome v] using wf
    rw [encode, decode_assemble_trap, decodeTrap_of_undefined undefined]
  | getc | out | puts | in_ | putsp | halt => exact decode_assemble_service _
  | rti => exact decode_rti (op _ _)
  | res => exact decode_res (op _ _)

/-- Settles O3: constructor by constructor, the extractors read back the fields that the format put in. -/
theorem decodeUndoesEncode : Obligations.DecodeUndoesEncode := decode_encode

end Sys2Proof
end

section
/-! PROOFS. Which bits of a word its decoding depends on: exactly those of its format's fields (spec/30_encoding.md R54,
R57). -/

namespace Sys2Proof

/-! ### The fields of a format -/

/-- The fields of an instruction's format, each its lowest bit and its width (R53, R54). -/
def Instr.formatFields : Instr → List (Nat × Nat)
  | .addReg _ _ _ | .andReg _ _ _ => [(12, 4), (9, 3), (6, 3), (5, 1), (0, 3)]
  | .addImm _ _ _ | .andImm _ _ _ => [(12, 4), (9, 3), (6, 3), (5, 1), (0, 5)]
  | .not _ _ => [(12, 4), (9, 3), (6, 3)]
  | .ld _ _ | .ldi _ _ | .lea _ _ | .st _ _ | .sti _ _ | .br _ _ => [(12, 4), (9, 3), (0, 9)]
  | .ldr _ _ _ | .str _ _ _ => [(12, 4), (9, 3), (6, 3), (0, 6)]
  | .jmp _ => [(12, 4), (6, 3)]
  | .jsr _ => [(12, 4), (11, 1), (0, 11)]
  | .jsrr _ => [(12, 4), (11, 1), (6, 3)]
  | .trap _ | .getc | .out | .puts | .in_ | .putsp | .halt => [(12, 4), (0, 8)]
  | .rti | .res => [(12, 4)]

/-- Two words hold the same in every one of these fields. -/
def SameFields (fields : List (Nat × Nat)) (a b : Word) : Prop :=
  ∀ f ∈ fields, a.extractLsb' f.1 f.2 = b.extractLsb' f.1 f.2

/-- Bit `j` lies in one of these fields. -/
def Covers (fields : List (Nat × Nat)) (j : Nat) : Prop := ∃ f ∈ fields, f.1 ≤ j ∧ j < f.1 + f.2

@[simp] theorem sameFields_nil (a b : Word) : SameFields [] a b := fun _ hf => absurd hf List.not_mem_nil

@[simp] theorem sameFields_cons (start width : Nat) (fields : List (Nat × Nat)) (a b : Word) :
    SameFields ((start, width) :: fields) a b ↔
      a.extractLsb' start width = b.extractLsb' start width ∧ SameFields fields a b :=
  List.forall_mem_cons

/-- A format ignores exactly the bits outside its fields (R57). -/
theorem getLsbD_ignoredBits (i : Instr) :
    ∀ j < 16, i.ignoredBits.getLsbD j = false ↔ Covers i.formatFields j := by
  unfold Covers
  cases i <;> dsimp only [Instr.ignoredBits, Instr.formatFields] <;> decide

/-- Words are equal off a mask if they agree on every bit outside it, and conversely. -/
theorem and_not_eq_iff (a b mask : Word) :
    a &&& ~~~mask = b &&& ~~~mask ↔ ∀ j < 16, mask.getLsbD j = false → a.getLsbD j = b.getLsbD j := by
  constructor
  · intro h j hj outside
    have hbit := congrArg (fun w : Word => w.getLsbD j) h
    simpa only [BitVec.getLsbD_and, BitVec.getLsbD_not, hj, outside, decide_true, Bool.not_false, Bool.and_true] using hbit
  · intro h
    refine BitVec.eq_of_getLsbD_eq fun j hj => ?_
    rw [BitVec.getLsbD_and, BitVec.getLsbD_and, BitVec.getLsbD_not]
    cases outside : mask.getLsbD j with
    | true => simp only [Bool.not_true, Bool.and_false]
    | false => rw [h j hj outside]

/-- Words have the same fields if they agree on every bit that these cover, and conversely. -/
theorem sameFields_iff_bits (fields : List (Nat × Nat)) (a b : Word) :
    SameFields fields a b ↔ ∀ j < 16, Covers fields j → a.getLsbD j = b.getLsbD j := by
  constructor
  · rintro h j - ⟨f, hf, low, high⟩
    have offset : j - f.1 < f.2 := by omega
    have hbit := congrArg (fun v => v.getLsbD (j - f.1)) (h f hf)
    simpa only [BitVec.getLsbD_extractLsb', offset, decide_true, Bool.true_and, Nat.add_sub_cancel' low] using hbit
  · intro h f hf
    refine BitVec.eq_of_getLsbD_eq fun k hk => ?_
    rw [BitVec.getLsbD_extractLsb', BitVec.getLsbD_extractLsb']
    by_cases inWord : f.1 + k < 16
    · rw [h (f.1 + k) inWord ⟨f, hf, Nat.le_add_right .., Nat.add_lt_add_left hk _⟩]
    · rw [BitVec.getLsbD_of_ge a _ (by omega), BitVec.getLsbD_of_ge b _ (by omega)]

theorem sameFields_formatFields_iff (i : Instr) (a b : Word) :
    SameFields i.formatFields a b ↔ a &&& ~~~i.ignoredBits = b &&& ~~~i.ignoredBits := by
  rw [sameFields_iff_bits, and_not_eq_iff]
  exact forall₂_congr fun j hj => by rw [getLsbD_ignoredBits i j hj]

/-! ### Words that decode alike -/

theorem fieldOpcode_eq_of_opcode_eq {a b : Word} (h : (decode a).opcode = (decode b).opcode) :
    fieldOpcode a = fieldOpcode b := by
  rw [opcode_decode, opcode_decode] at h
  simpa [bitsOfOpcode_opcodeOfBits] using congrArg bitsOfOpcode h

theorem vectorOfService_of_serviceOfVector {v : BitVec 8} {service : TrapService}
    (hv : serviceOfVector v = some service) : vectorOfService service = v := by
  revert v
  cases service <;> decide

theorem encode_decodeTrap (v : BitVec 8) : encode (decodeTrap v) = assemble .trap (formatTrap v) := by
  cases hv : serviceOfVector v with
  | none => rw [decodeTrap_of_undefined hv, encode]
  | some service =>
    rw [decodeTrap_of_service hv, ← vectorOfService_of_serviceOfVector hv]
    cases service <;> rfl

theorem decodeTrap_inj (v u : BitVec 8) : decodeTrap v = decodeTrap u ↔ v = u := by
  refine ⟨fun h => ?_, congrArg decodeTrap⟩
  simpa [encode_decodeTrap, fieldVector_assemble] using congrArg (fun i => fieldVector (encode i)) h

theorem formatFields_decodeTrap (v : BitVec 8) : (decodeTrap v).formatFields = [(12, 4), (0, 8)] := by
  cases hv : serviceOfVector v with
  | none => rw [decodeTrap_of_undefined hv, Instr.formatFields]
  | some service => rw [decodeTrap_of_service hv]; cases service <;> rfl

theorem opcode_mem_formatFields (i : Instr) : (12, 4) ∈ i.formatFields := by
  cases i <;> exact List.mem_cons_self

/-- A field of one bit. -/
theorem extractLsb'_one_eq_iff (a b : Word) (k : Nat) :
    a.extractLsb' k 1 = b.extractLsb' k 1 ↔ a.getLsbD k = b.getLsbD k := by
  constructor
  · intro h
    simpa using congrArg (fun v => v.getLsbD 0) h
  · intro h
    refine BitVec.eq_of_getLsbD_eq fun j hj => ?_
    obtain rfl : j = 0 := by omega
    simpa using h

/-- Words decode alike if they hold the same in every field of the format, and conversely. -/
theorem decode_eq_iff_sameFields (a b : Word) :
    decode a = decode b ↔ SameFields (decode b).formatFields a b := by
  by_cases same : fieldOpcode a = fieldOpcode b
  case neg =>
    exact ⟨fun h => absurd (fieldOpcode_eq_of_opcode_eq (congrArg Instr.opcode h)) same,
      fun h => absurd (h _ (opcode_mem_formatFields _)) same⟩
  have same' : a.extractLsb' 12 4 = b.extractLsb' 12 4 := same
  have imm : a.extractLsb' 5 1 = b.extractLsb' 5 1 ↔ fieldImmFlag a = fieldImmFlag b := extractLsb'_one_eq_iff a b 5
  have long : a.extractLsb' 11 1 = b.extractLsb' 11 1 ↔ fieldLong a = fieldLong b := extractLsb'_one_eq_iff a b 11
  cases opb : opcodeOfBits (fieldOpcode b) with
  | trap =>
    rw [decode_trap (same ▸ opb), decode_trap opb, decodeTrap_inj, formatFields_decodeTrap]
    simp [same', fieldVector]
  | add | and =>
    have opa := same ▸ opb
    cases fa : fieldImmFlag a <;> cases fb : fieldImmFlag b <;>
      simp [decode, opa, opb, fa, fb, Instr.formatFields, same', imm, fieldDr, fieldSr1, fieldSr2, fieldImm5]
  | jsr =>
    have opa := same ▸ opb
    cases fa : fieldLong a <;> cases fb : fieldLong b <;>
      simp [decode, opa, opb, fa, fb, Instr.formatFields, same', long, fieldOff11, fieldBaseR]
  | _ =>
    have opa := same ▸ opb
    simp [decode, opa, opb, Instr.formatFields, same', fieldDr, fieldSr1, fieldBaseR, fieldMask, fieldOff9, fieldOff6]

/-- Words decode alike if they agree on every bit that the format does not ignore, and conversely. -/
theorem decode_eq_iff_and_not_eq (a b : Word) :
    decode a = decode b ↔ a &&& ~~~(decode b).ignoredBits = b &&& ~~~(decode b).ignoredBits :=
  (decode_eq_iff_sameFields a b).trans (sameFields_formatFields_iff _ a b)

/-- Settles O4: the encoded word decodes to the same instruction (O3), so it agrees with the word on every bit the
format names. -/
theorem encodeOfDecodeKeepsNamedBits : Obligations.EncodeOfDecodeKeepsNamedBits := fun w =>
  (decode_eq_iff_and_not_eq _ w).1 (decode_encode (decode w) (wellFormed_decode w))

theorem xor_and_not_eq (w m mask : Word) : (w ^^^ (m &&& mask)) &&& ~~~mask = w &&& ~~~mask := by
  refine (and_not_eq_iff _ _ _).2 fun j _ outside => ?_
  rw [BitVec.getLsbD_xor, BitVec.getLsbD_and, outside, Bool.and_false, Bool.xor_false]

/-- Settles O5: the changed word agrees with the word on every bit the format names. -/
theorem ignoredBitsHaveNoEffect : Obligations.IgnoredBitsHaveNoEffect := fun w m =>
  (decode_eq_iff_and_not_eq _ w).2 (xor_and_not_eq w m _)

end Sys2Proof
end

section
/-! PROOFS. What an instruction can do to the state, said once (spec/40_fetch_execute_loop.md R72), and when it does not
complete (spec/45_trap.md R130). -/

namespace Sys2Proof.Machine

/-- The service an instruction runs (R120). -/
def serviceOf : Instr → Option TrapService
  | .trap v => serviceOfVector v
  | .getc => some .getc
  | .out => some .out
  | .puts => some .puts
  | .in_ => some .in_
  | .putsp => some .putsp
  | .halt => some .halt
  | _ => none

/-- The states an instruction can lead to, by its kind. -/
inductive Effect (i : Instr) (s : State) : State → Prop
  | result {dr : RegNum} (v : Word) : setsCond i = true → destReg i = some dr → Effect i s (s.writeResult dr v)
  | store {a : Word} (v : Word) : storeAddr s i = some a → Effect i s (s.writeMem a v)
  | jump (target : Word) : writesPc i = true → Effect i s (s.setPc target)
  | call (target : Word) : writesPc i = true → destReg i = some Config.linkReg → Effect i s (s.link.setPc target)
  | service {k : TrapService} : serviceOf i = some k → Effect i s (runService k s)
  | stay : Effect i s s

theorem exec_of_serviceOf {i : Instr} {k : TrapService} (hk : serviceOf i = some k) (s : State) :
    exec i s = .next (runService k s) := by
  cases i with
  | trap v => exact execTrap_of_service hk s
  | getc | out | puts | in_ | putsp | halt =>
    cases hk
    rfl
  | _ => cases hk

theorem effect_of_exec {i : Instr} {s t : State} (h : exec i s = .next t) : Effect i s t := by
  cases hk : serviceOf i with
  | some k =>
    obtain rfl := Host.Outcome.next.inj ((exec_of_serviceOf hk s).symm.trans h)
    exact .service hk
  | none =>
    cases i with
    | addReg | addImm | andReg | andImm | not | ld | ldi | ldr | lea =>
      obtain rfl := Host.Outcome.next.inj h
      exact .result _ rfl rfl
    | st | sti | str =>
      obtain rfl := Host.Outcome.next.inj h
      exact .store _ rfl
    | br mask off9 =>
      obtain rfl := Host.Outcome.next.inj h
      split
      · exact .jump _ rfl
      · exact .stay
    | jmp =>
      obtain rfl := Host.Outcome.next.inj h
      exact .jump _ rfl
    | jsr | jsrr =>
      obtain rfl := Host.Outcome.next.inj h
      exact .call _ rfl rfl
    | trap v => cases h.symm.trans (execTrap_of_undefined hk s)
    | getc | out | puts | in_ | putsp | halt => cases hk
    | rti | res =>
      obtain rfl := Host.Outcome.next.inj h
      exact .stay

/-! ### The facts about the instructions' tables -/

theorem opcode_of_serviceOf {i : Instr} {k : TrapService} (h : serviceOf i = some k) : i.opcode = .trap := by
  cases i with
  | trap | getc | out | puts | in_ | putsp | halt => rfl
  | _ => cases h

theorem setsCond_of_serviceOf {i : Instr} {k : TrapService} (h : serviceOf i = some k) : setsCond i = false := by
  rw [← Bool.not_eq_true, setsCond_iff_opcode, opcode_of_serviceOf h]
  decide

/-- The services that read a character write R0 (R122, R126). -/
theorem destReg_of_reading_service {i : Instr} {k : TrapService} (h : serviceOf i = some k) (reads : k = .getc ∨ k = .in_) :
    destReg i = some Config.ioReg := by
  cases i with
  | trap v =>
    change serviceOfVector v = some k at h
    simp [destReg, h, reads]
  | getc | in_ => rfl
  | out | puts | putsp | halt =>
    cases h
    simp at reads
  | _ => cases h

/-- Of the terms a word decodes to, only HALT runs the HALT service. -/
theorem eq_halt_of_serviceOf {i : Instr} (wf : i.wellFormed = true) (h : serviceOf i = some .halt) : i = .halt := by
  cases i with
  | halt => rfl
  | trap v =>
    change serviceOfVector v = some .halt at h
    simp [Instr.wellFormed, ← serviceOfVector_isSome, h] at wf
  | _ => cases h

/-! ### What a service does to the registers, running and the ports -/

/-- A step appends to the output and takes at most the first character of the input (R134, R135). -/
def AdvancesPorts (s t : State) : Prop :=
  (∃ es, t.outTrace = s.outTrace ++ es) ∧ (t.inStream = s.inStream ∨ ∃ c, s.inStream = c :: t.inStream)

theorem AdvancesPorts.of_same {s t : State} (hout : t.outTrace = s.outTrace) (hin : t.inStream = s.inStream) :
    AdvancesPorts s t := ⟨⟨[], by rw [hout, List.append_nil]⟩, .inl hin⟩

theorem AdvancesPorts.of_emit {s t : State} {es : List OutEvent} (hout : t.outTrace = s.outTrace ++ es)
    (hin : t.inStream = s.inStream) : AdvancesPorts s t := ⟨⟨es, hout⟩, .inl hin⟩

theorem advancesPorts_serviceGetc (s : State) : AdvancesPorts s (serviceGetc s) := by
  rcases serviceGetc_cases s with ⟨c, cs, hin, h⟩ | ⟨-, h⟩ <;> rw [h]
  · exact ⟨⟨[], by simp⟩, .inr ⟨c, hin⟩⟩
  · exact .of_same rfl rfl

/-- What IN appends after events that stand before it: its prompt, or none. -/
theorem advancesPorts_awaitIn_emit (s : State) (es : List OutEvent) : AdvancesPorts s (awaitIn (s.emit es)) := by
  rcases awaitIn_cases (s.emit es) with ⟨c, cs, hin, h⟩ | ⟨-, h⟩ <;> rw [h]
  · exact ⟨⟨es ++ [.char c], by simp⟩, .inr ⟨c, hin⟩⟩
  · exact .of_emit rfl rfl

theorem advancesPorts_awaitIn (s : State) : AdvancesPorts s (awaitIn s) := by
  simpa [State.emit] using advancesPorts_awaitIn_emit s []

theorem advancesPorts_putsFrom (a : Word) (s : State) : AdvancesPorts s (putsFrom a s) := by
  obtain ⟨es, p, h⟩ := putsFrom_cases a s
  rw [h]
  exact .of_emit rfl rfl

theorem advancesPorts_putspFrom (a : Word) (s : State) : AdvancesPorts s (putspFrom a s) := by
  obtain ⟨es, p, h⟩ := putspFrom_cases a s
  rw [h]
  exact .of_emit rfl rfl

theorem advancesPorts_runService (k : TrapService) (s : State) : AdvancesPorts s (runService k s) := by
  cases k with
  | getc => exact advancesPorts_serviceGetc s
  | out => exact .of_emit rfl rfl
  | puts => exact advancesPorts_putsFrom _ s
  | in_ => exact advancesPorts_awaitIn_emit s _
  | putsp => exact advancesPorts_putspFrom _ s
  | halt => exact .of_same rfl rfl

theorem advancesPorts_resumeService (p : Pending) (s : State) : AdvancesPorts s (resumeService p s) := by
  cases p with
  | getc => exact advancesPorts_serviceGetc s
  | in_ => exact advancesPorts_awaitIn s
  | puts a => exact advancesPorts_putsFrom a s
  | putsp a => exact advancesPorts_putspFrom a s

/-- Only HALT clears the running flag (R129). -/
theorem runService_running {k : TrapService} (hk : k ≠ .halt) (s : State) : (runService k s).running = s.running := by
  cases k with
  | getc => rcases serviceGetc_cases s with ⟨c, cs, -, h⟩ | ⟨-, h⟩ <;> rw [runService, h] <;> rfl
  | out | puts | putsp => rfl
  | in_ =>
    rcases awaitIn_cases (s.emit (s.inPrompt.map .char)) with ⟨c, cs, -, h⟩ | ⟨-, h⟩ <;>
      rw [runService, serviceIn, h] <;> rfl
  | halt => exact absurd rfl hk

/-- Only the services that read a character write a register, R0 (R122, R126). -/
theorem reg_runService_of_not_reading {k : TrapService} (hk : ¬ (k = .getc ∨ k = .in_)) (s : State) (q : RegNum) :
    (runService k s).reg q = s.reg q := by
  cases k with
  | getc | in_ => simp at hk
  | out | puts | putsp | halt => rfl

/-! ### When an instruction does not complete -/

/-- Every instruction completes in every state, or is a TRAP outside the table, which faults (R130, R152). -/
theorem exec_next_or_undefined (i : Instr) (s : State) :
    (∃ t, exec i s = .next t) ∨
      ∃ v, i = .trap v ∧ serviceOfVector v = none ∧ exec i s = .fault (.undefinedTrapVector v s) := by
  cases i with
  | trap v =>
    cases hv : serviceOfVector v with
    | some k => exact .inl ⟨_, execTrap_of_service hv s⟩
    | none => exact .inr ⟨v, rfl, hv, execTrap_of_undefined hv s⟩
  | _ => exact .inl ⟨_, rfl⟩

/-- The words that decode to the generic TRAP term (R59, R130). -/
theorem decode_eq_trap_iff (w : Word) (v : BitVec 8) :
    decode w = .trap v ↔ (decode w).opcode = .trap ∧ fieldVector w = v ∧ serviceOfVector v = none := by
  have notTrap : ∀ k, instrOfService k ≠ .trap v := fun k => by cases k <;> simp [instrOfService]
  constructor
  · intro h
    have op : (decode w).opcode = .trap := by rw [h]; rfl
    rw [decode_trap ((opcode_decode w).symm.trans op)] at h
    cases hv : serviceOfVector (fieldVector w) with
    | some k => exact absurd ((decodeTrap_of_service hv).symm.trans h) (notTrap k)
    | none =>
      obtain rfl := Instr.trap.inj ((decodeTrap_of_undefined hv).symm.trans h)
      exact ⟨op, rfl, hv⟩
  · rintro ⟨op, rfl, hv⟩
    rw [decode_trap ((opcode_decode w).symm.trans op), decodeTrap_of_undefined hv]

/-- Settles O6: only the generic TRAP term may not complete, and `decode_eq_trap_iff` says which words decode to it. -/
theorem everyWordDecodes : Obligations.EveryWordDecodes := by
  refine ⟨wellFormed_decode, fun s => step_of_ready, fun w s => ?_⟩
  rcases exec_next_or_undefined (decode w) s with done | ⟨v, hw, -, -⟩
  · exact .inl done
  · obtain ⟨op, rfl, undefined⟩ := (decode_eq_trap_iff w v).1 hw
    exact .inr ⟨op, (serviceOfVector_eq_none_iff _).1 undefined⟩

theorem step_of_undefined_trap {s : State} (ready : s.ready) (op : (decode s.fetchWord).opcode = .trap)
    (undefined : serviceOfVector (fieldVector s.fetchWord) = none) :
    step s = .fault (.undefinedTrapVector (fieldVector s.fetchWord) s.advancePc) := by
  rw [step_of_ready ready, (decode_eq_trap_iff _ _).2 ⟨op, rfl, undefined⟩]
  exact execTrap_of_undefined undefined _

/-- A step completes, or it is the fetch of a TRAP outside the table by a ready machine. -/
theorem step_next_or_undefined (s : State) :
    (∃ t, step s = .next t) ∨
      (s.ready ∧ (decode s.fetchWord).opcode = .trap ∧ serviceOfVector (fieldVector s.fetchWord) = none) := by
  by_cases hr : s.running = true
  case neg => exact .inl ⟨s, step_of_halted (Bool.eq_false_of_not_eq_true hr)⟩
  cases hs : s.service with
  | some p => exact .inl ⟨_, step_of_service hr hs⟩
  | none =>
    rw [step_of_ready ⟨hr, hs⟩]
    rcases exec_next_or_undefined (decode s.fetchWord) s.advancePc with done | ⟨v, hw, undefined, -⟩
    · exact .inl done
    · obtain ⟨op, rfl, -⟩ := (decode_eq_trap_iff _ v).1 hw
      exact .inr ⟨⟨hr, hs⟩, op, undefined⟩

/-- Settles O43: a step that does not complete fetches an undefined TRAP, and that one faults. -/
theorem stepStopsOnlyAtUndefinedTrap : Obligations.StepStopsOnlyAtUndefinedTrap := by
  intro s
  refine ⟨fun f => ⟨fun h => ?_, ?_⟩, fun r h => ?_⟩
  · rcases step_next_or_undefined s with ⟨t, done⟩ | ⟨ready, op, undefined⟩
    · cases h.symm.trans done
    · have stopped := step_of_undefined_trap ready op undefined
      exact ⟨ready, op, (serviceOfVector_eq_none_iff _).1 undefined, Host.Outcome.fault.inj (h.symm.trans stopped)⟩
  · rintro ⟨ready, op, outside, rfl⟩
    exact step_of_undefined_trap ready op ((serviceOfVector_eq_none_iff _).2 outside)
  · rcases step_next_or_undefined s with ⟨t, done⟩ | ⟨ready, op, undefined⟩
    · cases h.symm.trans done
    · cases h.symm.trans (step_of_undefined_trap ready op undefined)

end Sys2Proof.Machine
end

section
/-! PROOFS. The invariant, and what a step leaves unchanged, from what an instruction can do (spec/10_state.md). -/

namespace Sys2Proof.Machine

/-! ### The invariant -/

theorem State.Inv.advancePc {s : State} (h : s.Inv) : s.advancePc.Inv := ⟨h.cond, h.mem, h.halted⟩

theorem State.ready.advancePc {s : State} (h : s.ready) : s.advancePc.ready := h

/-- An instruction leaves no halted machine in a service: only HALT stops, and it leaves `service` as it was. -/
theorem exec_halted {i : Instr} {s t : State} (ready : s.ready) (h : exec i s = .next t) (stopped : t.running = false) :
    t.service = none := by
  obtain ⟨hrun, hservice⟩ := ready
  cases effect_of_exec h with
  | result | store | jump | call | stay => exact hservice
  | @service k hk =>
    by_cases halts : k = .halt
    · subst halts
      exact hservice
    · rw [runService_running halts, hrun] at stopped
      cases stopped

theorem exec_keeps_inv {i : Instr} {s t : State} (ready : s.ready) (inv : s.Inv) (h : exec i s = .next t) : t.Inv := by
  have halted := exec_halted ready h
  cases effect_of_exec h with
  | result v => exact ⟨oneHot_condOf v, inv.mem, halted⟩
  | store v => exact ⟨inv.cond, Memory.wf_write _ _ v inv.mem, halted⟩
  | jump | call | stay => exact ⟨inv.cond, inv.mem, halted⟩
  | @service k =>
    obtain ⟨-, hcond, hmem, -, -⟩ := runService_frame k s
    exact ⟨hcond ▸ inv.cond, hmem ▸ inv.mem, halted⟩

theorem resumeService_keeps_inv {s : State} (p : Pending) (hrun : s.running = true) (inv : s.Inv) :
    (resumeService p s).Inv := by
  obtain ⟨-, hcond, hmem, hrunning, -, -⟩ := resumeService_frame p s
  refine ⟨hcond ▸ inv.cond, hmem ▸ inv.mem, fun stopped => ?_⟩
  rw [hrunning, hrun] at stopped
  cases stopped

/-- Settles O17: a halted machine stays as it is, and a resumed service and an instruction each keep the invariant. -/
theorem stepKeepsInvariant : Obligations.StepKeepsInvariant := by
  intro s t inv h
  rcases step_cases h with ⟨-, rfl⟩ | ⟨p, hrun, -, rfl⟩ | ⟨ready, hexec⟩
  · exact inv
  · exact resumeService_keeps_inv p hrun inv
  · exact exec_keeps_inv ready.advancePc inv.advancePc hexec

/-- Settles O16: a flag is one-hot, an image is loaded by writes to the empty memory, and the machine runs. -/
theorem everyStartMeetsInvariant : Obligations.EveryStartMeetsInvariant := by
  intro p s h
  have ready := State.ready_start h
  obtain ⟨-, rfl⟩ := State.start_eq_next h
  exact ⟨⟨oneHot_bits p.cond, loadImage_wf _ _ _ Memory.wf_nil, fun _ => rfl⟩, ready⟩

theorem inv_reset : State.reset.Inv := ⟨oneHot_bits .z, Memory.wf_nil, fun _ => rfl⟩

theorem reg_reset (q : RegNum) : State.reset.reg q = 0x0000#16 := Vector.getElem_replicate _

/-- Settles O15: every field of reset is what its definition says. -/
theorem resetMeetsInvariant : Obligations.ResetMeetsInvariant :=
  ⟨inv_reset, ⟨rfl, rfl⟩, rfl, rfl, reg_reset, rfl, rfl, rfl, rfl⟩

/-! ### The frame of an instruction -/

/-- Settles O25: effect by effect. -/
theorem execChangesOnlyWhatTheTablesName : Obligations.ExecChangesOnlyWhatTheTablesName := by
  intro i s t h
  cases effect_of_exec h with
  | @result dr v hset hdr =>
    refine ⟨fun q hq => ?_, fun _ _ => rfl, fun _ => rfl, fun unset => ?_,
      fun _ => ⟨⟨rfl, rfl⟩, rfl, rfl, rfl⟩, rfl⟩
    · have other : q ≠ dr := fun e => hq (e ▸ hdr)
      rw [State.reg_writeResult, if_neg other]
    · cases hset.symm.trans unset
  | @store a v ha =>
    refine ⟨fun _ _ => rfl, fun b hb => ?_, fun _ => rfl, fun _ => rfl, fun _ => ⟨⟨rfl, rfl⟩, rfl, rfl, rfl⟩, rfl⟩
    have other : b ≠ a := fun e => hb (e ▸ ha)
    rw [State.readMem_writeMem, if_neg other]
  | jump target hpc =>
    exact ⟨fun _ _ => rfl, fun _ _ => rfl, fun keeps => (Bool.false_ne_true (keeps.symm.trans hpc)).elim, fun _ => rfl,
      fun _ => ⟨⟨rfl, rfl⟩, rfl, rfl, rfl⟩, rfl⟩
  | call target hpc hdr =>
    refine ⟨fun q hq => ?_, fun _ _ => rfl, fun keeps => (Bool.false_ne_true (keeps.symm.trans hpc)).elim, fun _ => rfl,
      fun _ => ⟨⟨rfl, rfl⟩, rfl, rfl, rfl⟩, rfl⟩
    have other : q ≠ Config.linkReg := fun e => hq (e ▸ hdr)
    rw [State.reg_setPc, State.reg_link, if_neg other]
  | @service k hk =>
    obtain ⟨hpc, hcond, hmem, hprompt, hreg⟩ := runService_frame k s
    refine ⟨fun q hq => ?_, fun a _ => congrArg (·.read a) hmem, fun _ => hpc, fun _ => hcond,
      fun notTrap => absurd (opcode_of_serviceOf hk) notTrap, hprompt⟩
    by_cases reads : k = .getc ∨ k = .in_
    · have other : q ≠ Config.ioReg := fun e => hq (e ▸ destReg_of_reading_service hk reads)
      exact hreg q other
    · exact reg_runService_of_not_reading reads s q
  | stay =>
    exact ⟨fun _ _ => rfl, fun _ _ => rfl, fun _ => rfl, fun _ => rfl, fun _ => ⟨⟨rfl, rfl⟩, rfl, rfl, rfl⟩, rfl⟩

theorem exec_pc_of_not_writesPc {i : Instr} {s t : State} (hi : writesPc i = false) (h : exec i s = .next t) :
    t.pc = s.pc := by
  obtain ⟨-, -, hpc, -, -, -⟩ := execChangesOnlyWhatTheTablesName i s t h
  exact hpc hi

/-- Settles O24: the four control transfers by their meanings, every other instruction by `exec_pc_of_not_writesPc`. -/
theorem pcAfterEachInstruction : Obligations.PcAfterEachInstruction := by
  intro s t ready h
  rw [step_of_ready ready] at h
  cases hi : decode s.fetchWord with
  | br mask off9 =>
    rw [hi] at h
    obtain rfl := Host.Outcome.next.inj h
    by_cases taken : s.cond &&& mask = 0#3 <;> simp [branchTaken, taken, State.eaPc9]
  | jmp baseR =>
    rw [hi] at h
    obtain rfl := Host.Outcome.next.inj h
    rfl
  | jsr off11 =>
    rw [hi] at h
    obtain rfl := Host.Outcome.next.inj h
    rfl
  | jsrr baseR =>
    rw [hi] at h
    obtain rfl := Host.Outcome.next.inj h
    exact State.reg_link s.advancePc baseR
  | _ =>
    rw [hi] at h
    exact exec_pc_of_not_writesPc rfl h

/-! ### The running flag -/

theorem exec_running_of_ne_halt {i : Instr} {s t : State} (wf : i.wellFormed = true) (hi : i ≠ .halt)
    (h : exec i s = .next t) : t.running = s.running := by
  cases effect_of_exec h with
  | result | store | jump | call | stay => rfl
  | @service k hk =>
    have notHalt : k ≠ .halt := fun e => hi (eq_halt_of_serviceOf wf (e ▸ hk))
    exact runService_running notHalt s

theorem exec_halt (s : State) : exec .halt s = .next s.stop := rfl

theorem step_running_cases {s t : State} (h : step s = .next t) :
    t.running = s.running ∨ (s.ready ∧ decode s.fetchWord = .halt ∧ t.running = false) := by
  rcases step_cases h with ⟨-, rfl⟩ | ⟨p, -, -, rfl⟩ | ⟨ready, hexec⟩
  · exact .inl rfl
  · obtain ⟨-, -, -, hrunning, -, -⟩ := resumeService_frame p s
    exact .inl hrunning
  · by_cases hi : decode s.fetchWord = .halt
    · rw [hi, exec_halt] at hexec
      obtain rfl := Host.Outcome.next.inj hexec
      exact .inr ⟨ready, hi, rfl⟩
    · exact .inl ((exec_running_of_ne_halt (wellFormed_decode _) hi hexec).trans (State.advancePc_running s))

/-- Settles O23: a start is ready, a step that changes `running` is the fetch of a HALT, and a halted state is fixed. -/
theorem onlyHaltEndsTheRun : Obligations.OnlyHaltEndsTheRun := by
  refine ⟨fun p s h => (State.ready_start h).1, fun s t h changed => ?_,
    fun s halted => run_of_fixed (step_of_halted halted)⟩
  rcases step_running_cases h with same | ⟨⟨hrun, hservice⟩, hi, stopped⟩
  · exact absurd same changed
  · exact ⟨hrun, stopped, hservice, hi⟩

/-! ### The ports -/

theorem advancesPorts_exec {i : Instr} {s t : State} (h : exec i s = .next t) : AdvancesPorts s t := by
  cases effect_of_exec h with
  | result | store | jump | call | stay => exact .of_same rfl rfl
  | @service k => exact advancesPorts_runService k s

/-- Settles O53: a halted machine, a resumed service and an instruction each advance the ports so; the fetch leaves them
as they are. -/
theorem stepAppendsOutputAndConsumesInOrder : Obligations.StepAppendsOutputAndConsumesInOrder := by
  intro s t h
  rcases step_cases h with ⟨-, rfl⟩ | ⟨p, -, -, rfl⟩ | ⟨-, hexec⟩
  · exact AdvancesPorts.of_same rfl rfl
  · exact advancesPorts_resumeService p s
  · have ports : AdvancesPorts s.advancePc t := advancesPorts_exec hexec
    exact ports

/-! ### COND as an input -/

/-- The state with another COND. -/
def State.setCond (s : State) (c : BitVec 3) : State := { s with cond := c }

/-- No service reads COND. -/
theorem runService_setCond (k : TrapService) (s : State) (c : BitVec 3) :
    runService k (s.setCond c) = (runService k s).setCond c := by
  cases k with
  | getc => simp only [runService, serviceGetc, State.setCond]; split <;> rfl
  | in_ => simp only [runService, serviceIn, awaitIn, State.setCond, State.emit]; split <;> rfl
  | out | puts | putsp | halt => rfl

theorem exec_setCond_of_service {i : Instr} {k : TrapService} (hk : serviceOf i = some k) (s : State) (c : BitVec 3) :
    exec i (s.setCond c) = .next ((runService k s).setCond c) := by
  rw [exec_of_serviceOf hk, runService_setCond]

/-- Settles O22: a service does not read COND; every other instruction but BR is defined without it, so its next state is
the same but for COND, which `setcc` overwrites or nothing touches. -/
theorem condIsReadByBrOnly : Obligations.CondIsReadByBrOnly := by
  intro i s t c notBr h
  cases hk : serviceOf i with
  | some k =>
    obtain rfl := Host.Outcome.next.inj ((exec_of_serviceOf hk s).symm.trans h)
    exact ⟨_, exec_setCond_of_service hk s c, rfl, (if_neg (by simp [setsCond_of_serviceOf hk])).symm⟩
  | none =>
    cases i with
    | br mask off9 => exact absurd rfl (notBr mask off9)
    | trap v => cases h.symm.trans (execTrap_of_undefined hk s)
    | getc | out | puts | in_ | putsp | halt => cases hk
    | _ =>
      obtain rfl := Host.Outcome.next.inj h
      exact ⟨_, rfl, rfl, rfl⟩

end Sys2Proof.Machine
end

section
/-! PROOFS. A canonical memory lists exactly its nonzero cells (spec/20_memory.md, spec/70_reset_and_hazards.md R172, R179). -/

namespace Sys2Proof.Machine

/-- A listed word that is looked up. -/
theorem Memory.mem_of_get {m : Memory} {k : Nat} (listed : m.get k ≠ unlistedWord) : (k, m.get k) ∈ m := by
  induction m with
  | nil => exact absurd rfl listed
  | cons c rest ih =>
    obtain ⟨j, v⟩ := c
    rw [Memory.get] at listed ⊢
    split at listed
    next here =>
      rw [if_pos here, here]
      exact List.mem_cons_self
    next elsewhere =>
      rw [if_neg elsewhere]
      exact List.mem_cons_of_mem _ (ih listed)

/-- With rising addresses the first cell of an address is its only one. -/
theorem Memory.get_of_mem {m : Memory} (sorted : m.Pairwise (fun c d => c.1 < d.1)) {c : Cell} (hc : c ∈ m) :
    m.get c.1 = c.2 := by
  induction m with
  | nil => cases hc
  | cons d rest ih =>
    obtain ⟨below, sortedRest⟩ := List.pairwise_cons.1 sorted
    rcases List.mem_cons.1 hc with rfl | inRest
    · exact if_pos rfl
    · rw [Memory.get, if_neg (below c inRest).ne, ih sortedRest inRest]

theorem Memory.mem_iff_read {m : Memory} (wf : m.wf) (a v : Word) :
    (a.toNat, v) ∈ m ↔ v ≠ unlistedWord ∧ m.read a = v := by
  obtain ⟨sorted, cells⟩ := wf
  constructor
  · intro hc
    obtain ⟨-, nonzero⟩ := cells _ hc
    exact ⟨nonzero, Memory.get_of_mem sorted hc⟩
  · rintro ⟨nonzero, rfl⟩
    exact Memory.mem_of_get nonzero

/-- The address of a listed cell is a word. -/
theorem Memory.exists_address {m : Memory} (wf : m.wf) {c : Cell} (hc : c ∈ m) : ∃ a : Word, c = (a.toNat, c.2) := by
  obtain ⟨inSpace, -⟩ := wf.2 c hc
  exact ⟨BitVec.ofNat 16 c.1, Prod.ext (Nat.mod_eq_of_lt inSpace).symm rfl⟩

theorem Memory.mem_of_read_eq {m m' : Memory} (wf : m.wf) (wf' : m'.wf) (alike : ∀ a : Word, m.read a = m'.read a)
    {c : Cell} (hc : c ∈ m) : c ∈ m' := by
  obtain ⟨a, ha⟩ := Memory.exists_address wf hc
  rw [ha] at hc ⊢
  rwa [Memory.mem_iff_read wf', ← alike, ← Memory.mem_iff_read wf]

/-- Settles O10: the memories list the same cells, each in rising order of the addresses. -/
theorem canonicalMemoriesReadingAlikeAreEqual : Obligations.CanonicalMemoriesReadingAlikeAreEqual := by
  intro m m' wf wf' alike
  have asymm : Std.Asymm (fun c d : Cell => c.1 < d.1) := ⟨fun _ _ => Nat.lt_asymm⟩
  exact wf.1.eq_of_mem_iff wf'.1 fun _ =>
    ⟨Memory.mem_of_read_eq wf wf' alike, Memory.mem_of_read_eq wf' wf fun a => (alike a).symm⟩

/-- Settles O55: the snapshot lists the state's memory, which is canonical. -/
theorem snapshotListsNonzeroCells : Obligations.SnapshotListsNonzeroCells := fun _ inv =>
  ⟨Memory.mem_iff_read inv.mem, rfl, rfl, rfl⟩

/-! ### The image at a start -/

/-- What a start leaves in memory: the image from 0x3000, nothing elsewhere. -/
theorem State.readMem_start {p : Params} {s : State} (h : State.start p = .next s) (a : Word) :
    s.readMem a =
      if h : (a - Config.loadAddr).toNat < p.image.length then p.image[(a - Config.loadAddr).toNat] else 0x0000#16 := by
  obtain ⟨fits, rfl⟩ := State.start_eq_next h
  exact loadImage_read p.image [] Config.loadAddr a (fits.trans (by decide))

theorem State.start_of_fits {p : Params} (fits : p.image.length ≤ Config.maxImageWords) : ∃ s, State.start p = .next s :=
  ⟨_, if_pos fits⟩

/-- Settles O14: word `k` is at distance `k` from 0x3000, and the addresses outside the image are at no distance below its
length. -/
theorem startPlacesImageVerbatim : Obligations.StartPlacesImageVerbatim := by
  refine fun p => ⟨fun fits => ?_, fun tooLong => if_neg (Nat.not_le.2 tooLong)⟩
  obtain ⟨s, h⟩ := State.start_of_fits fits
  obtain ⟨-, fields⟩ := State.start_eq_next h
  refine ⟨s, h, fun k hk => ?_, fun a outside => ?_, ?_⟩
  · have distance : (0x3000#16 + BitVec.ofNat 16 k - Config.loadAddr).toNat = k := by
      rw [Config.loadAddr]
      bv_omega
    rw [State.readMem_start h, dif_pos (by rwa [distance])]
    simp only [distance]
  · have distance : ¬ (a - Config.loadAddr).toNat < p.image.length := by
      rw [Config.loadAddr]
      bv_omega
    rw [State.readMem_start h, dif_neg distance]
  · subst fields
    exact ⟨rfl, rfl, rfl, rfl, rfl, rfl, rfl⟩

end Sys2Proof.Machine
end

section
/-! PROOFS. The trap services (spec/45_trap.md). -/

namespace Sys2Proof.Machine

/-! ### Characters -/

theorem toNat_zext8 (c : Byte) : (zext8 c).toNat = c.toNat := BitVec.toNat_setWidth_of_le (by decide)

theorem toNat_lowByte (w : Word) : (lowByte w).toNat = w.toNat % 256 := by
  simp [lowByte]

theorem lowByte_eq_setWidth (w : Word) : lowByte w = w.setWidth 8 := (BitVec.setWidth_eq_extractLsb' (by decide)).symm

theorem highByte_eq_setWidth (w : Word) : highByte w = (w >>> 8).setWidth 8 := BitVec.setWidth_ushiftRight_eq_extractLsb.symm

/-! ### The dispatch of TRAP -/

/-- Settles O41: the table selects the six services, and `runService_frame` says what each leaves. -/
theorem trapRunsServiceOfVector : Obligations.TrapRunsServiceOfVector := by
  refine fun s => ⟨rfl, rfl, rfl, rfl, rfl, rfl, fun v low high => ?_⟩
  cases hv : serviceOfVector v with
  | none =>
    have outside := (serviceOfVector_eq_none_iff v).1 hv
    omega
  | some k =>
    obtain ⟨hpc, hcond, hmem, -, hreg⟩ := runService_frame k s
    exact ⟨_, execTrap_of_service hv s, hpc, hcond, fun a => congrArg (·.read a) hmem, hreg⟩

/-- Settles O42: the table has no service for the vector. -/
theorem trapOutsideTableFaults : Obligations.TrapOutsideTableFaults := fun s v outside =>
  execTrap_of_undefined ((serviceOfVector_eq_none_iff v).2 outside) s

/-! ### GETC, IN, OUT, HALT -/

/-- Settles O44: `serviceGetc_of_char`, read field by field. -/
theorem getcReadsOneCharacter : Obligations.GetcReadsOneCharacter := by
  intro s c cs hin
  refine ⟨_, congrArg Host.Outcome.next (serviceGetc_of_char hin), ?_, fun q hq => State.reg_setReg_of_ne _ _ hq,
    rfl, rfl, rfl, rfl, rfl, rfl, rfl, fun _ => rfl⟩
  exact (congrArg BitVec.toNat (State.reg_setReg_self _ _ _)).trans (toNat_zext8 c)

/-- Settles O47: `awaitIn_of_char` after the prompt, read field by field. -/
theorem inPromptsReadsAndEchoes : Obligations.InPromptsReadsAndEchoes := by
  intro s c cs hin
  have hin' : (s.emit (s.inPrompt.map .char)).inStream = c :: cs := hin
  refine ⟨_, congrArg Host.Outcome.next (awaitIn_of_char hin'), ?_, fun q hq => State.reg_setReg_of_ne _ _ hq,
    rfl, rfl, rfl, rfl, rfl, rfl, rfl, fun _ => rfl⟩
  exact (congrArg BitVec.toNat (State.reg_setReg_self _ _ _)).trans (toNat_zext8 c)

/-- Settles O45: OUT appends the low byte of R0. -/
theorem outWritesLowByte : Obligations.OutWritesLowByte := fun s =>
  ⟨serviceOut s, lowByte (s.reg Config.ioReg), rfl, toNat_lowByte _, rfl, rfl, rfl, ⟨rfl, rfl⟩, fun _ => rfl, rfl, rfl,
    fun _ => rfl⟩

/-- Settles O49: HALT is `State.stop`. -/
theorem haltClearsRunningOnly : Obligations.HaltClearsRunningOnly := fun s =>
  ⟨s.stop, exec_halt s, State.stop_running s, rfl⟩

/-- Settles O50: with no character GETC and IN, after its prompt, only enter the service they wait in. -/
theorem getcAndInWaitForInput : Obligations.GetcAndInWaitForInput := by
  intro s hin hrun
  refine ⟨⟨_, congrArg Host.Outcome.next (serviceGetc_of_empty hin), ⟨hrun, .inl rfl, hin⟩, rfl, rfl⟩, ?_⟩
  have hin' : (s.emit (s.inPrompt.map .char)).inStream = [] := hin
  exact ⟨_, congrArg Host.Outcome.next (awaitIn_of_empty hin'), ⟨hrun, .inr rfl, hin⟩, rfl, rfl, rfl⟩

/-! ### Waiting for input -/

theorem State.setService_self {s : State} {p : Option Pending} (h : s.service = p) : s.setService p = s := by
  subst h
  rfl

/-- A step of a machine that waits for input changes nothing (R153). -/
theorem step_of_inputStarved {s : State} (h : s.inputStarved) : step s = .next s := by
  obtain ⟨hrun, hs | hs, hin⟩ := h
  · rw [step_of_service hrun hs, resumeService, serviceGetc_of_empty hin, State.setService_self hs]
  · rw [step_of_service hrun hs, resumeService, awaitIn_of_empty hin, State.setService_self hs]

theorem State.deliver_inStream_of_empty {s : State} (hin : s.inStream = []) (cs : List Byte) :
    (s.deliver cs).inStream = cs := by
  rw [State.deliver_inStream, hin, List.nil_append]

/-- Settles O51: a starved state is fixed; after a delivery the service in progress finds a character. -/
theorem starvedCoreWaitsUntilDelivery : Obligations.StarvedCoreWaitsUntilDelivery := by
  intro s starved
  refine ⟨run_of_fixed (step_of_inputStarved starved), fun c cs => ?_⟩
  obtain ⟨hrun, hs, hin⟩ := starved
  have delivered := State.deliver_inStream_of_empty hin (c :: cs)
  have r0 : ∀ t : State, ((t.setReg Config.ioReg (zext8 c)).reg Config.ioReg).toNat = c.toNat := fun t => by
    rw [State.reg_setReg_self, toNat_zext8]
  rcases hs with hs | hs
  · refine ⟨_, (step_of_service (s := s.deliver (c :: cs)) hrun hs).trans
        (congrArg Host.Outcome.next (serviceGetc_of_char delivered)),
      rfl, rfl, r0 _, fun q hq => State.reg_setReg_of_ne _ _ hq, ?_, hrun, rfl, rfl, rfl, fun _ => rfl⟩
    simp [hs]
  · refine ⟨_, (step_of_service (s := s.deliver (c :: cs)) hrun hs).trans
        (congrArg Host.Outcome.next (awaitIn_of_char delivered)),
      rfl, rfl, r0 _, fun q hq => State.reg_setReg_of_ne _ _ hq, ?_, hrun, rfl, rfl, rfl, fun _ => rfl⟩
    simp [hs]

/-! ### PUTS and PUTSP up to a zero cell -/

section
variable {s : State} {a : Word} {n : Nat} (hn : n < Config.memWords)
  (nonzero : ∀ k, k < n → s.readMem (a + BitVec.ofNat 16 k) ≠ 0x0000#16)
  (zero : s.readMem (a + BitVec.ofNat 16 n) = 0x0000#16)
include hn nonzero zero

theorem putsFrom_of_zero_cell : putsFrom a s =
    (s.emit ((List.range n).flatMap fun k => putsCell (s.readMem (a + BitVec.ofNat 16 k)))).setService none := by
  rw [putsFrom, walkString_closed putsCell s.mem a hn nonzero zero]
  rfl

theorem putspFrom_of_zero_cell : putspFrom a s =
    (s.emit ((List.range n).flatMap (fun k => putspCell (s.readMem (a + BitVec.ofNat 16 k))) ++ [.flush])).setService none := by
  rw [putspFrom, walkString_closed putspCell s.mem a hn nonzero zero]
  rfl

end

/-- Settles O46: the walk from R0 ends at the first zero cell. -/
theorem putsWritesUntilZeroCell : Obligations.PutsWritesUntilZeroCell := by
  intro s n hn nonzero zero
  refine ⟨_, congrArg Host.Outcome.next (putsFrom_of_zero_cell hn nonzero zero), ?_,
    rfl, rfl, rfl, rfl, fun _ => rfl, rfl, rfl, fun _ => rfl⟩
  simp only [State.setService_outTrace, State.emit_outTrace, putsCell, lowByte_eq_setWidth, ← List.map_eq_flatMap]
  rfl

/-- Settles O48: the walk from R0 ends at the first zero cell, and a flush follows it. -/
theorem putspWritesPackedUntilZeroCell : Obligations.PutspWritesPackedUntilZeroCell := by
  intro s n hn nonzero zero
  refine ⟨_, congrArg Host.Outcome.next (putspFrom_of_zero_cell hn nonzero zero), ?_,
    rfl, rfl, rfl, rfl, fun _ => rfl, rfl, rfl, fun _ => rfl⟩
  simp only [State.setService_outTrace, State.emit_outTrace, putspCell, lowByte_eq_setWidth, highByte_eq_setWidth,
    List.append_assoc]
  rfl

/-! ### PUTS and PUTSP with no zero cell -/

/-- A walk of the whole memory with no zero cell comes back to its start and has written something for every cell. -/
theorem walkString_of_no_zero {cell : Word → List OutEvent} (writes : ∀ w, 1 ≤ (cell w).length) {m : Memory}
    (full : ∀ a, m.read a ≠ 0x0000#16) (a : Word) :
    ∃ es, walkString cell m Config.memWords a = (es, some a) ∧ Config.memWords ≤ es.length := by
  have around : a + BitVec.ofNat 16 Config.memWords = a := BitVec.add_zero a
  refine ⟨_, (walkString_open cell m Config.memWords a fun _ _ => full _).trans (by rw [around]), ?_⟩
  rw [List.length_flatMap]
  calc Config.memWords = ((List.range Config.memWords).map fun j => (cell (m.read (a + BitVec.ofNat 16 j))).length).length := by
        rw [List.length_map, List.length_range]
    _ ≤ _ := List.length_le_sum_of_one_le _ fun l hl => by
        obtain ⟨j, -, rfl⟩ := List.mem_map.1 hl
        exact writes _

theorem putsFrom_of_no_zero {s : State} (full : ∀ a, s.readMem a ≠ 0x0000#16) (a : Word) :
    ∃ es, putsFrom a s = (s.emit es).setService (some (.puts a)) ∧ Config.memWords ≤ es.length := by
  obtain ⟨es, hwalk, hlength⟩ := walkString_of_no_zero (cell := putsCell) (fun _ => Nat.le_refl 1) full a
  exact ⟨es, by rw [putsFrom, hwalk]; rfl, hlength⟩

theorem putspFrom_of_no_zero {s : State} (full : ∀ a, s.readMem a ≠ 0x0000#16) (a : Word) :
    ∃ es, putspFrom a s = (s.emit es).setService (some (.putsp a)) ∧ Config.memWords ≤ es.length := by
  obtain ⟨es, hwalk, hlength⟩ := walkString_of_no_zero (cell := putspCell) (fun _ => Nat.le_succ 1) full a
  exact ⟨es, by rw [putspFrom, hwalk]; simp, hlength⟩

/-- A step within an endless string service writes on and stays in it. -/
theorem step_of_no_zero {s : State} {a : Word} (hrun : s.running = true) (full : ∀ a, s.readMem a ≠ 0x0000#16)
    (hs : s.service = some (.puts a) ∨ s.service = some (.putsp a)) :
    ∃ es, step s = .next (s.emit es) ∧ Config.memWords ≤ es.length := by
  rcases hs with hs | hs
  · obtain ⟨es, hputs, hlength⟩ := putsFrom_of_no_zero full a
    exact ⟨es, by rw [step_of_service hrun hs, resumeService, hputs, State.setService_self (s := s.emit es) hs], hlength⟩
  · obtain ⟨es, hputsp, hlength⟩ := putspFrom_of_no_zero full a
    exact ⟨es, by rw [step_of_service hrun hs, resumeService, hputsp, State.setService_self (s := s.emit es) hs], hlength⟩

theorem run_of_no_zero {s : State} {a : Word} (hrun : s.running = true) (full : ∀ a, s.readMem a ≠ 0x0000#16)
    (hs : s.service = some (.puts a) ∨ s.service = some (.putsp a)) (n : Nat) :
    ∃ es, core.run n s = .next (s.emit es) ∧ Config.memWords * n ≤ es.length := by
  induction n generalizing s with
  | zero => exact ⟨[], by simp [State.emit], Nat.zero_le _⟩
  | succ n ih =>
    obtain ⟨es, hstep, hlength⟩ := step_of_no_zero hrun full hs
    obtain ⟨es', hrest, hlength'⟩ := ih (s := s.emit es) hrun full hs
    refine ⟨es ++ es', ?_, ?_⟩
    · rw [run_succ_of_next n hstep, hrest]
      simp [State.emit]
    · rw [List.length_append, Nat.mul_succ]
      omega

/-- Settles O52: each step of the walk emits and changes nothing else, so `n` of them do. -/
theorem stringServiceWithoutTerminatorNeverEnds : Obligations.StringServiceWithoutTerminatorNeverEnds := by
  intro s hrun full
  obtain ⟨es, hputs, -⟩ := putsFrom_of_no_zero full (s.reg Config.ioReg)
  obtain ⟨es', hputsp, -⟩ := putspFrom_of_no_zero full (s.reg Config.ioReg)
  refine ⟨⟨_, congrArg Host.Outcome.next hputs, rfl⟩, ⟨_, congrArg Host.Outcome.next hputsp, rfl⟩, fun a hs n => ?_⟩
  obtain ⟨written, hrunN, hlength⟩ := run_of_no_zero hrun full hs n
  refine ⟨_, hrunN, hrun, rfl, rfl, ?_⟩
  rw [State.emit_outTrace, List.length_append]
  exact Nat.add_le_add_left hlength _

end Sys2Proof.Machine
end

section
/-! PROOFS. The instructions one by one (spec/41_operate.md to spec/44_control.md, spec/46_reserved.md): the shared effect of
each, and the arithmetic of its value. -/

namespace Sys2Proof.Machine

/-! ### Exact sums -/

/-- A word plus an extended field is the exact sum modulo 2^16 (R33, R85). -/
theorem toNat_add_sext {n : Nat} (hn : n ≤ 16) (a : Word) (v : BitVec n) :
    ((a + sext v).toNat : Int) = (a.toNat + v.toInt) % 65536 := by
  have value : ((sext v).toNat : Int) % 65536 = v.toInt % 65536 := by
    rw [← toInt_sext hn v, BitVec.toInt_eq_toNat_cond]
    omega
  rw [BitVec.toNat_add]
  omega

/-- Settles O11: the three sums are `toNat_add_sext`; the indirect address is its definition. -/
theorem effectiveAddressesWrap : Obligations.EffectiveAddressesWrap := fun s =>
  ⟨fun off9 => toNat_add_sext (by decide) s.pc off9, fun off11 => toNat_add_sext (by decide) s.pc off11,
    fun baseR off6 => toNat_add_sext (by decide) (s.reg baseR) off6, fun _ => rfl⟩

/-! ### Operate -/

/-- Settles O26: ADD writes the sum of the words. -/
theorem addWritesSumModulo : Obligations.AddWritesSumModulo := fun s dr sr1 =>
  ⟨fun sr2 => ⟨s.reg sr1 + s.reg sr2, writesResult_writeResult s dr _, BitVec.toNat_add _ _⟩,
    fun imm5 => ⟨s.reg sr1 + sext imm5, writesResult_writeResult s dr _, toNat_add_sext (by decide) _ imm5⟩⟩

/-- The bits of an extended field: its own, and its sign above them (R55). -/
theorem getLsbD_sext {n : Nat} (v : BitVec n) {k : Nat} (hk : k < 16) :
    (sext v).getLsbD k = if k < n then v.getLsbD k else v.msb := by
  rw [sext_eq_signExtend, BitVec.getLsbD_signExtend, decide_eq_true hk, Bool.true_and]

/-- Settles O27: AND writes the words' AND; above bit 15 both sides are 0. -/
theorem andWritesBitwiseAnd : Obligations.AndWritesBitwiseAnd := by
  refine fun s dr sr1 =>
    ⟨fun sr2 => ⟨s.reg sr1 &&& s.reg sr2, writesResult_writeResult s dr _, fun _ => BitVec.getLsbD_and⟩, fun imm5 =>
      ⟨s.reg sr1 &&& sext imm5, writesResult_writeResult s dr _, fun k => ?_⟩⟩
  rw [BitVec.getLsbD_and]
  by_cases hk : k < 16
  · rw [getLsbD_sext imm5 hk]
  · rw [BitVec.getLsbD_of_ge (s.reg sr1) k (Nat.le_of_not_lt hk), Bool.false_and, Bool.false_and]

/-- Settles O28: NOT writes the word's complement. -/
theorem notInvertsEveryBit : Obligations.NotInvertsEveryBit := by
  refine fun s dr sr1 => ⟨~~~ s.reg sr1, writesResult_writeResult s dr _, fun k hk => ?_⟩
  rw [BitVec.getLsbD_not, decide_eq_true hk, Bool.true_and]

/-! ### Loads and stores -/

/-- Settles O29: LD writes the word at its address. -/
theorem ldLoadsPcRelative : Obligations.LdLoadsPcRelative := fun s dr _ => writesResult_writeResult s dr _

/-- Settles O30: LDI writes the word at the address that its pointer cell holds. -/
theorem ldiLoadsThroughPointer : Obligations.LdiLoadsThroughPointer := fun s dr _ => writesResult_writeResult s dr _

/-- Settles O31: LDR writes the word at its address, computed before DR is written. -/
theorem ldrLoadsBasePlusOffset : Obligations.LdrLoadsBasePlusOffset := fun s dr _ _ => writesResult_writeResult s dr _

/-- Settles O32: LEA writes its address. -/
theorem leaWritesAddress : Obligations.LeaWritesAddress := fun s dr _ => writesResult_writeResult s dr _

/-- Settles O33: ST writes the cell at its address. -/
theorem stStoresPcRelative : Obligations.StStoresPcRelative := fun s _ _ => writesCell_writeMem s _ _

/-- Settles O34: STI writes the cell that its pointer cell names. -/
theorem stiStoresThroughPointer : Obligations.StiStoresThroughPointer := fun s _ _ => writesCell_writeMem s _ _

/-- Settles O35: STR writes the cell at its address. -/
theorem strStoresBasePlusOffset : Obligations.StrStoresBasePlusOffset := fun s _ _ _ => writesCell_writeMem s _ _

/-- ST, STI and STR write the register's value to the address they compute, and nothing else. -/
theorem exec_of_stores {i : Instr} {s : State} {sr : RegNum} {a : Word} (hsr : storedReg i = some sr)
    (ha : storeAddr s i = some a) : exec i s = .next (s.writeMem a (s.reg sr)) := by
  cases i with
  | st | sti | str =>
    cases hsr
    cases ha
    rfl
  | _ => cases hsr

/-- Settles O12: the fetch after a store to PC reads the cell written. -/
theorem storeIsSeenByNextFetch : Obligations.StoreIsSeenByNextFetch := fun _ s _ hsr ha =>
  ⟨_, exec_of_stores hsr ha, State.readMem_writeMem_self s s.pc _⟩

/-! ### Control -/

/-- BR goes to its target where COND meets the mask and stays at the incremented PC where not (R110). -/
theorem transfers_br (s : State) (mask : BitVec 3) (off9 : BitVec 9) :
    Transfers (exec (.br mask off9) s) s (if branchTaken s.cond mask then s.pc + sext off9 else s.pc) none := by
  change Transfers (execBr mask off9 s) s _ none
  unfold execBr
  split
  · exact transfers_setPc s _
  · exact transfers_stay s

theorem branchTaken_iff (cond mask : BitVec 3) : branchTaken cond mask = true ↔ cond &&& mask ≠ 0#3 := bne_iff_ne

/-- Settles O36: `transfers_br`, with the test written out. -/
theorem brBranchesIfCondMeetsMask : Obligations.BrBranchesIfCondMeetsMask := fun s mask off9 => by
  simpa only [branchTaken_iff] using transfers_br s mask off9

/-- A one-hot COND meets a mask that has the bit of its flag (R111). -/
theorem branchTaken_bits_iff (f : Flag) (mask : BitVec 3) : branchTaken f.bits mask = true ↔
    (mask.getLsbD 2 = true ∧ f.bits = 0b100#3) ∨ (mask.getLsbD 1 = true ∧ f.bits = 0b010#3) ∨
      (mask.getLsbD 0 = true ∧ f.bits = 0b001#3) := by
  revert mask
  cases f <;> decide

theorem branchTaken_bits_never (f : Flag) : branchTaken f.bits 0b000#3 = false := by cases f <;> rfl

theorem branchTaken_bits_always (f : Flag) : branchTaken f.bits 0b111#3 = true := by cases f <;> rfl

/-- Settles O37: a one-hot COND is a flag's value, and for each flag the masks are evaluated. -/
theorem branchMaskTable : Obligations.BranchMaskTable := by
  refine ⟨rfl, rfl, rfl, fun s mask off9 hot => ?_⟩
  obtain ⟨f, hf⟩ := (oneHot_iff s.cond).1 hot
  refine ⟨?_, ?_, ?_⟩
  · simpa only [hf, branchTaken_bits_iff] using transfers_br s mask off9
  · simpa only [hf, branchTaken_bits_never, Bool.false_eq_true, if_false] using transfers_br s 0b000#3 off9
  · simpa only [hf, branchTaken_bits_always, if_true] using transfers_br s 0b111#3 off9

/-- Settles O38: JMP only writes PC. -/
theorem jmpGoesToBaseRegister : Obligations.JmpGoesToBaseRegister := fun s _ => transfers_setPc s _

/-- Settles O39: JSR links and writes PC. -/
theorem jsrLinksAndBranches : Obligations.JsrLinksAndBranches := fun s _ => transfers_link s _

/-- Settles O40: JSRR links and writes PC, and a base of R7 is read after the link. -/
theorem jsrrLinksBeforeReadingBase : Obligations.JsrrLinksBeforeReadingBase := fun s baseR => by
  have target := State.reg_link s baseR
  rw [Config.linkReg] at target
  rw [← target]
  exact transfers_link s _

/-! ### The reserved opcodes, and the placed word -/

/-- Settles O54: the words of opcodes 8 and 13 decode to RTI and RES, whose meaning is the state itself. -/
theorem reservedOpcodesAreNoOps : Obligations.ReservedOpcodesAreNoOps := by
  refine fun s => ⟨rfl, rfl, fun ready reserved => ?_⟩
  rw [step_of_ready ready]
  rcases reserved with op | op
  · rw [decode_rti (opcode_of_bits op)]
    rfl
  · rw [decode_res (opcode_of_bits op)]
    rfl

theorem State.ready_withFetchWord (s : State) (nbits w : Nat) : (s.withFetchWord nbits w).ready := ⟨rfl, rfl⟩

theorem State.readMem_withFetchWord (s : State) (w a : Word) :
    (s.withFetchWord 16 w.toNat).readMem a = if a = s.pc then w else s.readMem a := by
  have word : BitVec.ofNat 16 (w.toNat % 2 ^ 16) = w := by
    rw [Nat.mod_eq_of_lt w.isLt, BitVec.ofNat_toNat, BitVec.setWidth_eq]
  calc (s.withFetchWord 16 w.toNat).readMem a = (s.writeMem s.pc (BitVec.ofNat 16 (w.toNat % 2 ^ 16))).readMem a := rfl
    _ = _ := by rw [word, State.readMem_writeMem]

theorem State.fetchWord_withFetchWord (s : State) (w : Word) : (s.withFetchWord 16 w.toNat).fetchWord = w :=
  (State.readMem_withFetchWord s w s.pc).trans (if_pos rfl)

/-- Settles O19: the state is ready and fetches the placed word. -/
theorem placedWordRunsNext : Obligations.PlacedWordRunsNext := by
  refine fun s w => ⟨(s.withFetchWord 16 w.toNat).advancePc, ?_, rfl, fun _ => rfl, rfl, ⟨rfl, rfl, rfl⟩,
    State.ready_withFetchWord s 16 w.toNat, State.readMem_withFetchWord s w⟩
  rw [step_of_ready (State.ready_withFetchWord s 16 w.toNat), State.fetchWord_withFetchWord]

/-- Settles O1: the 26 words are evaluated. -/
theorem specWordsDecodeAsListed : Obligations.SpecWordsDecodeAsListed := by
  unfold Obligations.SpecWordsDecodeAsListed
  decide

end Sys2Proof.Machine
end
